-- ==== Sys2Proof/Word.lean ====
section
/-! DEFINITION. The word types of the SD/SDHC card driver (spec/00_scope.md rule R8): bytes on the
bus, 32-bit arguments and payloads, 48-bit command frames. Every quantity is unsigned. -/

namespace Sys2Proof

/-- A byte exchanged on the bus: bit 7 is the most significant (R8). -/
abbrev Byte := BitVec 8

/-- A 32-bit value: a command argument, a block number or an extended payload (R8). -/
abbrev Word := BitVec 32

/-- A command frame seen as one 48-bit number, byte 0 in bits 47:40 and byte 5 in bits 7:0 (R71). -/
abbrev Frame := BitVec 48

end Sys2Proof
end

