-- ==== Sys2Proof/Syntax.lean ====
section
/-! DEFINITION. The instruction set of spec/opcode_table.json as syntax: the card command frames
and the four host operations (spec/30_encoding.md R79, R84), and the words they are written in. -/

namespace Sys2Proof

/-- One constructor per row of spec/opcode_table.json. -/
inductive Instr where
  /-- CMD0, the reset command (R103). -/
  | cmd0
  /-- CMD8, the interface-condition command (R104). -/
  | cmd8
  /-- CMD16, the set-block-length command (R105). -/
  | cmd16
  /-- CMD17, the single-block-read command at a card address (R106). -/
  | cmd17 (address : Word)
  /-- CMD55, the application-command prefix (R107). -/
  | cmd55
  /-- ACMD41, the initialization command; `hcs` is the high-capacity-support bit (R108). -/
  | acmd41 (hcs : Bool)
  /-- CMD58, the operating-conditions-register read command (R109). -/
  | cmd58
  /-- Any other frame the encoder can build (R100, R81). -/
  | cmdGeneric (index : BitVec 6) (arg : Word) (check : BitVec 7)
  /-- Host operation `Initialize()` (R170). -/
  | opInitialize
  /-- Host operation `ReadBlock(blockNumber, buffer)` (R208); the buffer is the machine's
  `State.buffer`. -/
  | opReadBlock (blockNumber : Word)
  /-- Host operation `IsReady()` (R220). -/
  | opIsReady
  /-- Host operation `Shutdown()` (R224). -/
  | opShutdown
  deriving DecidableEq, Repr

/-- The operands of the encoder, R100: `Encode(command, arg, check)`. -/
structure Command where
  /-- The 6-bit command index. -/
  index : BitVec 6
  /-- The 32-bit argument. -/
  arg : Word
  /-- The 7-bit check value; 0 means "check disabled" (R102). -/
  check : BitVec 7
  deriving DecidableEq, Repr

/-- A host request's fields (R33, R84). `blockNumber` is used by `ReadBlock` only; the buffer of the
request is the region `State.buffer`. -/
structure Request where
  /-- The operation select of R84. -/
  op : BitVec 2
  /-- The sector number. -/
  blockNumber : Word
  deriving DecidableEq, Repr

/-- The two formats an instruction is written in: a 48-bit frame (R71) or a host request (R84). -/
inductive InstrWord where
  | frame (w : Frame)
  | request (r : Request)
  deriving DecidableEq, Repr

/-- Why a word is no instruction. -/
inductive DecodeError where
  /-- A frame is exactly 6 bytes (R70, R88). -/
  | frameLength
  /-- Bit 47 of a frame is 0 (R71). -/
  | startBit
  /-- Bit 46 of a frame is 1 (R71). -/
  | transmissionBit
  /-- Bit 0 of a frame is 1 (R71). -/
  | stopBit
  deriving DecidableEq, Repr

end Sys2Proof
end

