-- ==== Sys2Proof/Config.lean ====
section
/-! DEFINITION. What is fixed for one device (the parameter table R5 of spec/00_scope.md, as the
structure `Params`, so that a statement can name or quantify over each) and the values the spec
leaves free, as constants without a body: the card's answers, the moment an armed guard expires, and
what the host does between operations. The values the spec gives the parameters stand in Machine/Params.lean. -/

namespace Sys2Proof

/-- `PAYLOAD_WIRE_ORDER` (R5, R55): which received payload byte is most significant. -/
inductive WireOrder where
  /-- The first received byte holds bits 31:24 (the default, spec/90_conflicts.md C1). -/
  | msbFirst
  /-- The first received byte holds bits 7:0 (the literal reading, kept as the alternative). -/
  | lsbFirst
  deriving DecidableEq, Repr

/-- The named parameters of R5. `SLOW_DIV` and `FAST_DIV` are the two constructors of
`Machine.Divider` (D28), the deadlines the opaque constants below. -/
structure Params where
  /-- `FRAME_LEN`: bytes in a command frame (R70). -/
  frameLen : Nat
  /-- `FILL`: the fill byte, sent while only receiving and skipped while waiting (R78). -/
  fill : Byte
  /-- `RESPONSE_POLL_LIMIT`: bytes polled for a status byte (R120). -/
  responsePollLimit : Nat
  /-- `PAYLOAD_LEN` of the two commands that have an extended payload (R75). -/
  payloadBytes : Nat
  /-- `PAYLOAD_WIRE_ORDER` (R55). -/
  payloadWireOrder : WireOrder
  /-- `SECTOR_LEN` (R58). -/
  sectorLen : Nat
  /-- `TRAILER_LEN`: check bytes discarded after a sector (R206). -/
  trailerLen : Nat
  /-- `BLOCK_LEN_ARG` (R105). -/
  blockLenArg : Word
  /-- `POWER_ON_FILL_HIGH` (R172). -/
  powerOnFillHigh : Nat
  /-- `POWER_ON_FILL_LOW` (R172). -/
  powerOnFillLow : Nat
  /-- `CCS_BIT` (R176). -/
  ccsBit : Nat
  /-- `BUSY_BIT` (R220). -/
  busyBit : Nat
  /-- `IDX_RESET`. -/
  idxReset : BitVec 6
  /-- `IDX_IF_COND`. -/
  idxIfCond : BitVec 6
  /-- `IDX_SET_BLOCKLEN`. -/
  idxSetBlocklen : BitVec 6
  /-- `IDX_READ_SINGLE`. -/
  idxReadSingle : BitVec 6
  /-- `IDX_APP_PREFIX`. -/
  idxAppPrefix : BitVec 6
  /-- `IDX_APP_INIT`. -/
  idxAppInit : BitVec 6
  /-- `IDX_READ_OCR`. -/
  idxReadOcr : BitVec 6
  /-- `CHK_RESET`: the fixed check value of the reset command (R103). -/
  chkReset : BitVec 7
  /-- `CHK_IF_COND`: the fixed check value of the interface-condition command (R104). -/
  chkIfCond : BitVec 7
  /-- `IF_COND_PATTERN`: the voltage-check pattern (R104). -/
  ifCondPattern : Word
  /-- `ECHO_MASK`: the payload bits compared with the pattern (R174). -/
  echoMask : Word
  /-- `HCS_ARG`: the initialization command's argument for a version-2 card (R108). -/
  hcsArg : Word
  /-- `START_TOKEN` (R77). -/
  startToken : Byte
  deriving DecidableEq, Repr

/-- A move of the host, the fourth agent (R6), which it has only while no operation is in progress
(R33). That it makes none is the absence of a move (R272). -/
inductive HostMove where
  /-- It presents a request (R33). -/
  | request (r : Request)
  /-- An outer context of the host puts the chip-select line to a level, by the transport's own
  `Select` or `Restore` (R27, R150, R222, R278). -/
  | line (asserted : Bool)
  /-- It supplies another 512-byte region for the next `ReadBlock` (R52); what the region holds is the
  host's and has no value in the model. -/
  | buffer
  deriving DecidableEq, Repr

namespace Config

/-- What the host does at its `n`-th turn of the machine's life, once the moves laid out in
`Env.hostIn` are used up: a free value (R6: the host "invokes one operation at a time"; which and when
the spec leaves to it). No body. Log entry 28. -/
opaque hostMove : Nat → Option HostMove

/-- The byte the card answers to the `n`-th transfer of the machine's life, once the answers laid
out in `Env.cardIn` are used up: a free value (R6, R40, R142; U3 "any value: a draw per transfer,
under no law"). No body: nothing can be proved about it. Log entry 1. -/
opaque cardByte : Nat → Byte

/-- How many sequencer steps the expiry handler waits after the `n`-th `Arm` of the machine's life,
once the delays laid out in `Env.expiryIn` are used up: a free value (R157; U4). That it is a
number is the fairness R157 assumes. No body. Log entry 2. -/
opaque expiryDelay : Nat → Nat

/-- `NEGOTIATION_DEADLINE` ("≈ 1 second", R290): abstract, no rule depends on it (R5, U5). -/
opaque negotiationDeadline : Nat

/-- `READ_DEADLINE`: OPEN in R5 (N6), no rule depends on it. -/
opaque readDeadline : Nat

end Config

end Sys2Proof
end

