-- ==== Sys2Proof/Machine/State.lean ====
section
/-! DEFINITION. The state of the SD/SDHC card driver as plain data: the five groups of
spec/10_state.md rule R20, the caller's buffer (R52), the recorded transfers (R142), and the
environment's inputs (the card's answers and the expiry moments, R6). -/

namespace Sys2Proof.Machine

/-! ## Enumerations -/

/-- The 13 error kinds of R240 and R85. -/
inductive ErrorKind where
  | ok
  | idle
  | eraseReset
  | illegalCommand
  | commandCrc
  | eraseSequence
  | addressError
  | parameter
  | generic
  | timeout
  | invalidVoltageRange
  | noResponse
  | notInitialized
  deriving DecidableEq, Repr

/-- `DS.addressing_mode` (R22). -/
inductive AddrMode where
  | byte
  | block
  deriving DecidableEq, Repr

/-- `BT.divider` (R28): the two abstract clock dividers `SLOW_DIV` and `FAST_DIV` (D28). -/
inductive Divider where
  | slow
  | fast
  deriving DecidableEq, Repr

/-- The outcome of step 3 of `Initialize` (R31, R174). -/
inductive CardVersion where
  | v1
  | v2
  deriving DecidableEq, Repr

/-- A command of R79 as it can be called outside a host operation. The frame with index 41 is not
among them: it is sent after its prefix only (R80). -/
inductive CardCommand where
  /-- CMD0. -/
  | reset
  /-- CMD8. -/
  | ifCond
  /-- CMD16. -/
  | setBlocklen
  /-- CMD17, at the address in `address`. -/
  | readSingle
  /-- CMD55. -/
  | appPrefix
  /-- CMD58. -/
  | readOcr
  deriving DecidableEq, Repr

/-- The sequencer state register `seq` (R30): a position in the pseudocode of the operation in
progress. The step performed next is that of the line at the position; at a position marked "pure" the
line is a pure computation, which is part of the step that follows it (R9): `State.computed` makes it
and says which line's step that is. Where R30 gives one name to several lines, each line has a
constructor of its own. The positions that are calls of `Command` have, while they stand, a place
inside the transaction: `CmdPos`. -/
inductive Pos where
  /-- `Idle`: no host operation is in progress. -/
  | idle
  /-- The word `w` is presented to be run as a frame on its own (log entry 4). -/
  | frameFetch (w : Frame)
  /-- `Command` called on its own, outside a host operation (log entry 4). -/
  | frameCommand (k : CardCommand)
  /-- The CMD55 transaction of the pair ACMD41 (R80) called on its own. -/
  | framePrefix (hcs : Bool)
  /-- Pure: is the prefix's status benign (R175, D14). -/
  | framePrefixCheck (hcs : Bool)
  /-- The index 41 transaction of the pair ACMD41. -/
  | frameInit (hcs : Bool)
  /-- The return of a command called on its own. -/
  | frameReturn
  /-- `Init.entry`: `DS.initialized <- false` (R171). -/
  | initEntryClear
  /-- `Init.entry`: `Enable()`. -/
  | initEntryEnable
  /-- `Init.entry`: `SetDivider(slow)`. -/
  | initEntryDivider
  /-- `Init.s1_high` (R172). -/
  | initS1High
  /-- `Init.s1_low`: `Select()`. -/
  | initS1Select
  /-- `Init.s1_low`: the two transfers. -/
  | initS1Low
  /-- `Init.s1_low`: `Restore(p)`. -/
  | initS1Restore
  /-- `Init.s2_reset`: the command (R173). -/
  | initS2Reset
  /-- Pure: `Init.s2_reset`, the requirement on its kind. -/
  | initS2Check
  /-- `Init.s3_probe`: the command (R174). -/
  | initS3Probe
  /-- Pure: `Init.s3_probe`, the comparisons of its kind and payload. -/
  | initS3Check
  /-- `Init.s3_probe`: `card_version <- v2`. -/
  | initS3V2
  /-- `Init.s3_probe`: `card_version <- v1`. -/
  | initS3V1
  /-- `Init.s3_probe`: `DS.addressing_mode <- byte`. -/
  | initS3Byte
  /-- `Init.s4_arm` (R175). -/
  | initS4Arm
  /-- `Init.s4_test`. -/
  | initS4Test
  /-- `Init.s4_prefix`: the command. -/
  | initS4Prefix
  /-- Pure: `Init.s4_prefix`, the requirement on its kind. -/
  | initS4PrefixCheck
  /-- `Init.s4_init`: the command. -/
  | initS4Init
  /-- Pure: `Init.s4_init`, the comparisons of its kind. -/
  | initS4InitCheck
  /-- Step 4's `Disarm()` on leaving the loop with success. -/
  | initS4Disarm
  /-- Pure: "if card_version = v2" of R181. -/
  | initVersionCheck
  /-- `Init.s5_ocr`: the command (R176). -/
  | initS5Ocr
  /-- Pure: `Init.s5_ocr`, the requirement on its kind. -/
  | initS5Check
  /-- `Init.s5_ocr`: `DS.addressing_mode <- block if pl[30] = 1 else byte`. -/
  | initS5Mode
  /-- Pure: "if DS.addressing_mode = byte" of R181. -/
  | initModeCheck
  /-- `Init.s6_blocklen`: the command (R177). -/
  | initS6Blocklen
  /-- Pure: `Init.s6_blocklen`, the requirement on its kind. -/
  | initS6Check
  /-- `Init.s7_speed` (R178). -/
  | initS7Speed
  /-- `Init.done`: `DS.initialized <- true`. -/
  | initDone
  /-- `Init.done`: `return Ok(())`. -/
  | initReturn
  /-- The abort of step 4: `Disarm()` (R179, R252). -/
  | initAbort
  /-- The abort of `Initialize`: `Err(kind)` to the host (R179). -/
  | initFail
  /-- Pure: `Read.check` (R201) and the address (R202). -/
  | readCheck
  /-- `Read.select` (R203). -/
  | readSelect
  /-- `Read.command`: the command. -/
  | readCommand
  /-- Pure: `Read.command`, the requirement on its kind. -/
  | readStatusCheck
  /-- `Read.arm` (R204). -/
  | readArm
  /-- `Read.wait_token`: `Expired()`. -/
  | readWaitTest
  /-- `Read.wait_token`: `Xfer(0xFF)`. -/
  | readWaitXfer
  /-- Pure: `Read.wait_token`, `if b = START_TOKEN: break`. -/
  | readWaitCheck
  /-- `Read.wait_token`: the `Disarm()` after the token. -/
  | readWaitDisarm
  /-- `Read.data` (R205). -/
  | readData
  /-- `Read.trailer` (R206). -/
  | readTrailer
  /-- `Read.release`: `Restore(p)` (R207). -/
  | readRelease
  /-- `Read.release`: `return Ok(())`. -/
  | readReturn
  /-- The abort of the start-token wait: `Disarm()` (R252). -/
  | readAbortDisarm
  /-- The abort of `ReadBlock`: `Restore(p)` (R252). -/
  | readAbortRestore
  /-- The abort of `ReadBlock`: `Err(kind)` to the host. -/
  | readFail
  /-- `Ready.command` (R220). -/
  | readyCommand
  /-- `Ready.report`: the comparisons and the return they are part of. -/
  | readyReport
  /-- `Shut.disable` (R224). -/
  | shutDisable
  /-- The return of `Shutdown`. -/
  | shutReturn
  deriving DecidableEq, Repr

/-- The place inside a command transaction (R30, R149). At a position that is no call of `Command`
it stands at `select`, where the next transaction begins. -/
inductive CmdPos where
  /-- `Cmd.select`. -/
  | select
  /-- `Cmd.send`: counts `FRAME_LEN`. -/
  | send
  /-- `Cmd.poll`: counts up to `RESPONSE_POLL_LIMIT`. -/
  | poll
  /-- Pure: `PollStatus`, the comparison of the polled byte (R120). -/
  | polled
  /-- `PollStatus`: `return (true, b)`, or `return (false, 0xFF)`. -/
  | pollReturn
  /-- `Status`: `return NoResponse`, or `return Decode(s)` (R126). -/
  | statusReturn
  /-- Pure: "if n = 4 and benign(kind)" (R149). -/
  | statusTaken
  /-- `Cmd.payload`: counts 4. -/
  | payload
  /-- `ReadPayload`: `return assemble(r0, r1, r2, r3)` (R123). -/
  | payloadReturn
  /-- `Cmd.restore`: `Restore(p)`. -/
  | restore
  /-- `Command`: `return (kind, payload)`. -/
  | callReturn
  deriving DecidableEq, Repr

/-- The result fields of the host interface (R33), with the fields that carry no meaning left out:
`ok = 1`, `ok = 0` with its `kind`, the `ready` bit of `IsReady`, or no result (`Shutdown` has none,
R224, and before the first return there is none, R271). -/
inductive HostResult where
  | none
  | ok
  | err (kind : ErrorKind)
  | ready (bit : Bool)
  deriving DecidableEq, Repr

/-! ## The groups of R20 -/

/-- `DriverState` (R21, R22). -/
structure DriverState where
  /-- `DS.initialized`: the last run of `Initialize` completed (R21). -/
  initialized : Bool
  /-- `DS.addressing_mode` (R22). -/
  addressingMode : AddrMode
  deriving DecidableEq, Repr

/-- `TimeoutGuard` (R24, R25). -/
structure TimeoutGuard where
  /-- `TG.expired`: set by the expiry handler only, cleared by `Arm` only (R24). -/
  expired : Bool
  /-- `TG.armed` (R25). -/
  armed : Bool
  deriving DecidableEq, Repr

/-- The Bus Transport state the block drives (R27 to R29). -/
structure BusTransport where
  /-- `BT.cs_asserted`: the chip-select line is low (R27). -/
  csAsserted : Bool
  /-- `BT.divider` (R28). -/
  divider : Divider
  /-- `BT.enabled` (R29). -/
  enabled : Bool
  deriving DecidableEq, Repr

/-- The working registers of R31, live during one operation, each of the width R31 gives it. The
counters' ranges (0 to 10 and 0 to 512) are the invariant `State.CountersInRange`. -/
structure Work where
  /-- `frame`, 48 bits: the command frame being sent. -/
  frame : Frame
  /-- `cmd_index`, 6 bits. -/
  cmdIndex : BitVec 6
  /-- `cmd_arg`, 32 bits. -/
  cmdArg : Word
  /-- `cmd_chk`, 7 bits. -/
  cmdChk : BitVec 7
  /-- `status`, 8 bits: the status byte. While a status is polled for it holds the byte last polled, the
  model's choice (log entry 33). -/
  status : Byte
  /-- `kind`: the decoded status or a driver-raised kind. -/
  kind : ErrorKind
  /-- `payload`, 32 bits. Between the payload transfers it holds the bytes gathered so far, the model's
  choice (log entry 32). -/
  payload : Word
  /-- Whether `payload` holds a value: R123 gives it none after a non-benign status. -/
  payloadHeld : Bool
  /-- `poll_count`, 4 bits: bytes polled so far for a status. -/
  pollCount : BitVec 4
  /-- `byte_count`, 10 bits: bytes sent or received in a counted transfer. What it holds once the transfer is
  over is the model's choice (log entry 31). -/
  byteCount : BitVec 10
  /-- `card_version`. -/
  cardVersion : CardVersion
  /-- `address`, 32 bits: the argument of the single-block-read command. -/
  address : Word
  /-- The local variable `b` of the start-token wait (R204), which the comparison in the step after its
  transfer reads; the MODEL's own field, as R37 gives it no register (log entry 8). -/
  waitByte : Byte
  /-- `prior[0]`: the level saved by the operation's own `Select()`. -/
  priorOuter : Bool
  /-- `prior[1]`: the level saved by the transaction's `Select()`. -/
  priorInner : Bool
  deriving DecidableEq, Repr

/-- The host interface registers (R33). -/
structure HostPort where
  /-- The request the host presents and the block has not yet accepted. -/
  request : Option Request
  /-- The `block_number` field of the accepted request, used by `ReadBlock` only. -/
  blockNumber : Word
  /-- The result of the last operation that returned. -/
  result : HostResult
  deriving DecidableEq, Repr

/-- One transfer as the bus sees it (R142): `(BT.cs_asserted, BT.divider, b, r)`. -/
structure Event where
  /-- The chip-select line during the transfer. -/
  cs : Bool
  /-- The clock divider during the transfer. -/
  divider : Divider
  /-- The byte the block sends. -/
  sent : Byte
  /-- The byte received in the same exchange. -/
  received : Byte
  deriving DecidableEq, Repr

/-- The caller's 512-byte buffer (R52) as written so far: the listed positions hold the byte last
written; what an unlisted position holds is the host's and has no value in the model (log entry 6). -/
abbrev Memory := List Host.Cell

/-- What is outside the block (the MODEL's own fields, R6 and R40): the card's answers, the expiry moments
and the host's moves laid out for the run, the counters that index the free values after them, the number
of sequencer steps left before the armed guard expires, and what a bare call of `Encode` returned. -/
structure Env where
  /-- The bytes the card answers to the coming transfers; after them `Config.cardByte` answers. -/
  cardIn : List Byte
  /-- Transfers performed so far: the index of the next free answer. -/
  transfers : Nat
  /-- The delays of the coming `Arm`s in sequencer steps; after them `Config.expiryDelay` answers. -/
  expiryIn : List Nat
  /-- `Arm`s performed so far: the index of the next free delay. -/
  arms : Nat
  /-- While the guard is armed: sequencer steps still to come before the handler runs (R157). -/
  countdown : Nat
  /-- The host's coming moves, one for each of its turns; after them `Config.hostMove` answers. -/
  hostIn : List (Option HostMove)
  /-- Turns the host has had so far: the index of its next free move. -/
  turns : Nat
  /-- The frame that a bare call of `Encode` last returned to its caller, who is outside the block (R100,
  R101); none before the first such call (log entry 4). -/
  encoded : Option Frame
  deriving DecidableEq, Repr

end Sys2Proof.Machine

namespace Sys2Proof.Machine

/-- The state of the machine. -/
structure State where
  /-- `DriverState` (R20 a). -/
  ds : DriverState
  /-- `TimeoutGuard` (R20 b). -/
  tg : TimeoutGuard
  /-- The Bus Transport state (R20 c). -/
  bt : BusTransport
  /-- The sequencer state register `seq` (R20 d, R30). -/
  seq : Pos
  /-- The place of `seq` inside a command transaction (R30). -/
  cmdSeq : CmdPos
  /-- The working registers (R20 d, R31). -/
  w : Work
  /-- The host interface registers (R20 e, R33). -/
  host : HostPort
  /-- The caller's buffer (R52). -/
  buffer : Memory
  /-- Every transfer performed, in order (R142). -/
  trace : List Event
  /-- The environment (R6). -/
  env : Env
  deriving DecidableEq, Repr

/-- Why the machine stops with a fault. No run reaches one: R256, "no input makes the block
terminate or hang". -/
inductive Fault where
  /-- Raised by `step` at `Read.data` when `byte_count` names no position of the 512-byte buffer
  (R52): a state that no run reaches. Safe: the machine stops. -/
  | bufferPosition
  deriving DecidableEq, Repr

/-- Why the machine gives a request no meaning. -/
inductive Refusal where
  /-- Raised by `exec` for an instruction without a meaning; none is left. Safe. -/
  | notModelled (mnemonic : String)
  /-- Raised by `ReadBlock`, `IsReady` and a command called on its own while `BT.enabled` is false
  (R29, R159, U6 "refuse"), by `step` when the next step of an operation would use the transport then,
  and by the host's own move of the chip-select line then. Safe. -/
  | transportDisabled
  /-- Raised by `Initialize` when chip-select is asserted at entry (R171, U7 "refuse"). Safe. -/
  | selectedAtEntry
  /-- Raised when a request is made while an operation is in progress (R33, R279, U8 "refuse"). Safe. -/
  | operationInProgress
  /-- Raised by `step` when the word presented to be run as a frame is none (R71). Safe. -/
  | notAFrame (reason : DecodeError)
  deriving DecidableEq, Repr

/-! ## Reset -/

/-- The working registers when they hold nothing. R271 gives them no reset value; log entry 5. -/
def Work.reset : Work where
  frame := 0#48
  cmdIndex := 0#6
  cmdArg := 0#32
  cmdChk := 0#7
  status := 0#8
  kind := .ok
  payload := 0#32
  payloadHeld := false
  pollCount := 0#4
  byteCount := 0#10
  cardVersion := .v1
  address := 0#32
  waitByte := 0#8
  priorOuter := false
  priorInner := false

/-- The environment's fields at reset: nothing laid out, no transfer, no `Arm`, no turn of the host and no
bare call of `Encode` performed. -/
def Env.reset : Env where
  cardIn := []
  transfers := 0
  expiryIn := []
  arms := 0
  countdown := 0
  hostIn := []
  turns := 0
  encoded := none

/-- The machine right after reset (R270, R271, D22). -/
def State.reset : State where
  ds := { initialized := false, addressingMode := .byte }
  tg := { expired := false, armed := false }
  bt := { csAsserted := false, divider := .slow, enabled := true }
  seq := .idle
  cmdSeq := .select
  w := Work.reset
  host := { request := none, blockNumber := 0#32, result := .none }
  buffer := []
  trace := []
  env := Env.reset

end Sys2Proof.Machine
end

