-- ==== Sys2Proof/Machine/Flags.lean ====
section
/-! DEFINITION. The Response Decoder's pure part (spec/41_response_decoder.md): the kind of a status
byte by its highest set bit, and which kinds are benign. The block has no condition codes (R36). -/

namespace Sys2Proof.Machine

/-- `Decode(status)` (R121): the highest set bit wins. -/
def decodeStatus (s : Byte) : ErrorKind :=
  if s.getLsbD 7 then .noResponse
  else if s.getLsbD 6 then .parameter
  else if s.getLsbD 5 then .addressError
  else if s.getLsbD 4 then .eraseSequence
  else if s.getLsbD 3 then .commandCrc
  else if s.getLsbD 2 then .illegalCommand
  else if s.getLsbD 1 then .eraseReset
  else if s.getLsbD 0 then .idle
  else .ok

/-- `benign(k)` (R122): `Ok` and `Idle`, no other kind. -/
def ErrorKind.benign : ErrorKind → Bool
  | .ok => true
  | .idle => true
  | _ => false

/-- The kind a step reports for a status it does not accept (R173, R177, R203, R242, D10): a benign
kind that is not the required one is `Generic`, every other kind is itself. -/
def ErrorKind.reported (k : ErrorKind) : ErrorKind := if k.benign then .generic else k

end Sys2Proof.Machine
end

