-- ==== Sys2Proof/Machine/Params.lean ====
section
/-! DEFINITION. The values of the parameter table R5 of spec/00_scope.md. The ones marked "general
knowledge" are the spec's own (spec/93_implementation_defined.md part 2), not the source's. -/

namespace Sys2Proof.Machine

/-- The parameters of R5 at the values R5 gives them. From general knowledge, by R5's own marking:
the indices 16 and 17, both check values, the pattern, `HCS_ARG`, the start token, the busy bit. -/
def params : Params where
  frameLen := 6
  fill := 0xFF#8
  responsePollLimit := 10
  payloadBytes := 4
  payloadWireOrder := .msbFirst
  sectorLen := 512
  trailerLen := 2
  blockLenArg := 512#32
  powerOnFillHigh := 10
  powerOnFillLow := 2
  ccsBit := 30
  busyBit := 31
  idxReset := 0#6
  idxIfCond := 8#6
  idxSetBlocklen := 16#6
  idxReadSingle := 17#6
  idxAppPrefix := 55#6
  idxAppInit := 41#6
  idxReadOcr := 58#6
  chkReset := 0x4A#7
  chkIfCond := 0x43#7
  ifCondPattern := 0x000001AA#32
  echoMask := 0xFFFFFFFF#32
  hcsArg := 0x40000000#32
  startToken := 0xFE#8

end Sys2Proof.Machine
end

