-- ==== Sys2Proof/WellFormed.lean ====
section
/-! DEFINITION. The commands of R79 as encoder operands, and the check that an instruction is the
one its word stands for: a generic frame is well formed when none of the seven specific rows of
spec/opcode_table.json covers its word ("A decoder should try the seven specific rows first"). -/

namespace Sys2Proof

open Machine (params)

/-- Every specific row of the frame table that covers an operand triple. -/
inductive FrameRow where
  | cmd0 | cmd8 | cmd16 | cmd17 | cmd55 | acmd41 | cmd58
  deriving DecidableEq, Repr

/-- Does the row cover the triple: the row's `match` and `mask` over the fields of R71, R79. -/
def FrameRow.covers (k : Command) : FrameRow → Bool
  | .cmd0 => k.index == params.idxReset && k.arg == 0#32 && k.check == params.chkReset
  | .cmd8 => k.index == params.idxIfCond && k.arg == params.ifCondPattern && k.check == params.chkIfCond
  | .cmd16 => k.index == params.idxSetBlocklen && k.arg == params.blockLenArg && k.check == 0#7
  | .cmd17 => k.index == params.idxReadSingle && k.check == 0#7
  | .cmd55 => k.index == params.idxAppPrefix && k.arg == 0#32 && k.check == 0#7
  | .acmd41 => k.index == params.idxAppInit && (k.arg == params.hcsArg || k.arg == 0#32) && k.check == 0#7
  | .cmd58 => k.index == params.idxReadOcr && k.arg == 0#32 && k.check == 0#7

/-- The seven rows in the table's order. -/
def FrameRow.all : List FrameRow := [.cmd0, .cmd8, .cmd16, .cmd17, .cmd55, .acmd41, .cmd58]

/-- The one check of the syntax: a generic frame is not one of the seven specific ones. The operand
widths exclude every other ill-formed term (R101, D31). -/
def Instr.wf : Instr → Bool
  | .cmd0 => true
  | .cmd8 => true
  | .cmd16 => true
  | .cmd17 _ => true
  | .cmd55 => true
  | .acmd41 _ => true
  | .cmd58 => true
  | .cmdGeneric index arg check => FrameRow.all.all fun r => !r.covers ⟨index, arg, check⟩
  | .opInitialize => true
  | .opReadBlock _ => true
  | .opIsReady => true
  | .opShutdown => true

end Sys2Proof
end

