-- ==== Sys2Proof/Decode.lean ====
section
/-! DEFINITION. The decoder, total on any word, and the encoder, both from the encoding rules of
spec/30_encoding.md (R70, R71, R79, R84) and the Command Encoder R100 of
spec/40_command_encoder.md. -/

namespace Sys2Proof

open Machine (params)

/-! ## The frame format -/

/-- `Encode(command, arg, check)` of R100, its six bytes written one after the other (R70), byte 0
in the highest place (R71). -/
def encodeFrame (k : Command) : Frame :=
  (0x40#8 ||| k.index.setWidth 8) ++
  k.arg.extractLsb' 24 8 ++ k.arg.extractLsb' 16 8 ++ k.arg.extractLsb' 8 8 ++ k.arg.extractLsb' 0 8 ++
  ((k.check.setWidth 8 <<< 1) ||| 1#8)

/-- Byte `i` (0 to 5) of a frame, in the order it is sent (R70, R71). -/
def frameByte (w : Frame) (i : Nat) : Byte := w.extractLsb' (8 * (5 - i)) 8

/-- The `FRAME_LEN` bytes of a frame, in the order they are sent (R70). -/
def frameBytes (c : Params) (w : Frame) : List Byte := (List.range c.frameLen).map (frameByte w)

/-- The operand fields of a frame (R71): `command = F[45:40]`, `arg = F[39:8]`, `check = F[7:1]`. -/
def frameCommand (w : Frame) : Command where
  index := w.extractLsb' 40 6
  arg := w.extractLsb' 8 32
  check := w.extractLsb' 1 7

/-- Six received bytes as one frame word (R71). -/
def frameOfBytes (b0 b1 b2 b3 b4 b5 : Byte) : Frame := b0 ++ b1 ++ b2 ++ b3 ++ b4 ++ b5

/-! ## The command table R79 -/

/-- The argument of the initialization command: `HCS_ARG` with the high-capacity-support bit, zero
without it (R108). -/
def hcsArgument (c : Params) (hcs : Bool) : Word := if hcs then c.hcsArg else 0#32

/-- CMD0 (R103). -/
def resetCommand (c : Params) : Command := ⟨c.idxReset, 0#32, c.chkReset⟩
/-- CMD8 (R104). -/
def ifCondCommand (c : Params) : Command := ⟨c.idxIfCond, c.ifCondPattern, c.chkIfCond⟩
/-- CMD16 (R105). -/
def setBlocklenCommand (c : Params) : Command := ⟨c.idxSetBlocklen, c.blockLenArg, 0#7⟩
/-- CMD17 (R106). -/
def readSingleCommand (c : Params) (address : Word) : Command := ⟨c.idxReadSingle, address, 0#7⟩
/-- CMD55 (R107). -/
def appPrefixCommand (c : Params) : Command := ⟨c.idxAppPrefix, 0#32, 0#7⟩
/-- The frame with index 41 (R108). -/
def appInitCommand (c : Params) (hcs : Bool) : Command := ⟨c.idxAppInit, hcsArgument c hcs, 0#7⟩
/-- CMD58 (R109). -/
def readOcrCommand (c : Params) : Command := ⟨c.idxReadOcr, 0#32, 0#7⟩

/-! ## Decoding -/

/-- The row of spec/opcode_table.json an operand triple belongs to: the seven specific rows first. -/
def classify (k : Command) : Instr :=
  if FrameRow.covers k .cmd0 then .cmd0
  else if FrameRow.covers k .cmd8 then .cmd8
  else if FrameRow.covers k .cmd16 then .cmd16
  else if FrameRow.covers k .cmd17 then .cmd17 k.arg
  else if FrameRow.covers k .cmd55 then .cmd55
  else if FrameRow.covers k .acmd41 then .acmd41 (k.arg == params.hcsArg)
  else if FrameRow.covers k .cmd58 then .cmd58
  else .cmdGeneric k.index k.arg k.check

/-- Decode a frame: `F & 0xC00000000001 = 0x400000000001` (R71), then its row. -/
def decodeFrame (w : Frame) : Except DecodeError Instr :=
  if w.getLsbD 47 then .error .startBit
  else if !w.getLsbD 46 then .error .transmissionBit
  else if !w.getLsbD 0 then .error .stopBit
  else .ok (classify (frameCommand w))

/-- Decode a host request by its operation select (R84). All four values are used. -/
def decodeRequest (r : Request) : Instr :=
  if r.op = 0#2 then .opInitialize
  else if r.op = 1#2 then .opReadBlock r.blockNumber
  else if r.op = 2#2 then .opIsReady
  else .opShutdown

/-- Decode a word of either format. -/
def decode : InstrWord → Except DecodeError Instr
  | .frame w => decodeFrame w
  | .request r => .ok (decodeRequest r)

/-- Decode the bytes of a frame as they stand on the bus, byte 0 first; any other number of bytes
is no frame (R88). -/
def decodeBytes : List Byte → Except DecodeError Instr
  | [b0, b1, b2, b3, b4, b5] => decodeFrame (frameOfBytes b0 b1 b2 b3 b4 b5)
  | _ => .error .frameLength

/-! ## Encoding -/

/-- The encoder's operands for a command row of the table (R79, R100); none for a host operation. -/
def Instr.command : Instr → Option Command
  | .cmd0 => some (resetCommand params)
  | .cmd8 => some (ifCondCommand params)
  | .cmd16 => some (setBlocklenCommand params)
  | .cmd17 address => some (readSingleCommand params address)
  | .cmd55 => some (appPrefixCommand params)
  | .acmd41 hcs => some (appInitCommand params hcs)
  | .cmd58 => some (readOcrCommand params)
  | .cmdGeneric index arg check => some ⟨index, arg, check⟩
  | .opInitialize => none
  | .opReadBlock _ => none
  | .opIsReady => none
  | .opShutdown => none

/-- The word of an instruction: R79 and R100 for a command, R84 for a host operation. -/
def encode : Instr → InstrWord
  | .cmd0 => .frame (encodeFrame (resetCommand params))
  | .cmd8 => .frame (encodeFrame (ifCondCommand params))
  | .cmd16 => .frame (encodeFrame (setBlocklenCommand params))
  | .cmd17 address => .frame (encodeFrame (readSingleCommand params address))
  | .cmd55 => .frame (encodeFrame (appPrefixCommand params))
  | .acmd41 hcs => .frame (encodeFrame (appInitCommand params hcs))
  | .cmd58 => .frame (encodeFrame (readOcrCommand params))
  | .cmdGeneric index arg check => .frame (encodeFrame ⟨index, arg, check⟩)
  | .opInitialize => .request ⟨0#2, 0#32⟩
  | .opReadBlock blockNumber => .request ⟨1#2, blockNumber⟩
  | .opIsReady => .request ⟨2#2, 0#32⟩
  | .opShutdown => .request ⟨3#2, 0#32⟩

/-! ## Words numbered as spec/opcode_table.json numbers them -/

/-- A table word as an instruction word: a `frame48` row is the 48-bit word of R71; a `hostop2` row
is the 2-bit select of R84 in one byte, whose other six bits are 0, with a block number of 0. -/
def tableWord (nbits w : Nat) : Option InstrWord :=
  if nbits = 48 then
    if w < 2 ^ 48 then some (.frame (BitVec.ofNat 48 w)) else none
  else if nbits ≤ 8 then
    if w < 4 then some (.request ⟨BitVec.ofNat 2 w, 0#32⟩) else none
  else none

/-- The instruction the decoder reads from a table word; none where it refuses. -/
def decodeTableWord (nbits w : Nat) : Option Instr :=
  match tableWord nbits w with
  | some u =>
    match decode u with
    | .ok i => some i
    | .error _ => none
  | none => none

end Sys2Proof
end

