-- ==== Sys2Proof/Machine/Operands.lean ====
section
/-! DEFINITION. The operand computations of the block: the address translation R61, the payload
assembly R55, the payload fields R76, `PAYLOAD_LEN` (R75), and the numeric codes R85 and R86. -/

namespace Sys2Proof.Machine

/-- The argument of the single-block-read command (R61, R202): the sector number under block
addressing, `block_number * 512` modulo 2^32 under byte addressing (D20). -/
def translate (mode : AddrMode) (blockNumber : Word) : Word :=
  match mode with
  | .block => blockNumber
  | .byte => blockNumber * 512#32

/-- `PAYLOAD_LEN(cmd)` (R5, R75): the interface-condition command and the operating-conditions read
have a payload, no other command has. -/
def payloadLen (c : Params) (index : BitVec 6) : Nat :=
  if index = c.idxIfCond ∨ index = c.idxReadOcr then c.payloadBytes else 0

/-- The place in the payload of the `i`-th received payload byte `r`, the other bits zero (R55). -/
def payloadPlace (order : WireOrder) (i : Nat) (r : Byte) : Word :=
  match order with
  | .msbFirst => r.setWidth 32 <<< (8 * (3 - i))
  | .lsbFirst => r.setWidth 32 <<< (8 * i)

/-- The payload value of four received bytes (R55). -/
def assemble (order : WireOrder) (r0 r1 r2 r3 : Byte) : Word :=
  payloadPlace order 0 r0 ||| payloadPlace order 1 r1 ||| payloadPlace order 2 r2 ||| payloadPlace order 3 r3

/-- Is the interface-condition echo the sent pattern, under `ECHO_MASK` (R174). -/
def echoMatches (c : Params) (payload : Word) : Bool :=
  (payload &&& c.echoMask) == (c.ifCondPattern &&& c.echoMask)

/-- The addressing mode an operating-conditions value selects: bit `CCS_BIT` (R176). -/
def ocrMode (c : Params) (payload : Word) : AddrMode :=
  if payload.getLsbD c.ccsBit then .block else .byte

/-- The readiness an operating-conditions value reports: bit `BUSY_BIT`, 1 is ready (R220). -/
def ocrReady (c : Params) (payload : Word) : Bool := payload.getLsbD c.busyBit

/-- The 4-bit code of a kind (R85). -/
def ErrorKind.code : ErrorKind → BitVec 4
  | .ok => 0
  | .idle => 1
  | .eraseReset => 2
  | .illegalCommand => 3
  | .commandCrc => 4
  | .eraseSequence => 5
  | .addressError => 6
  | .parameter => 7
  | .generic => 8
  | .timeout => 9
  | .invalidVoltageRange => 10
  | .noResponse => 11
  | .notInitialized => 12

/-- The stored code of an addressing mode (R86). -/
def AddrMode.code : AddrMode → BitVec 1
  | .byte => 0
  | .block => 1

/-- The stored code of a card version (R86). -/
def CardVersion.code : CardVersion → BitVec 1
  | .v1 => 0
  | .v2 => 1

/-- The stored code of a divider (R86). -/
def Divider.code : Divider → BitVec 1
  | .slow => 0
  | .fast => 1

end Sys2Proof.Machine
end

