-- ==== Sys2Proof/Machine/Ops.lean ====
section
/-! DEFINITION. The primitives of spec/42_transaction_and_timeout.md, one function each, the caller's
buffer, the return of a result to the host, and the two things that play the part of exceptions
(spec/60_exceptions.md): `raise Fail(k)` and the timer's expiry handler. -/

namespace Sys2Proof.Machine

/-! ## The caller's buffer (R52) -/

/-- The buffer has 512 positions (R52). -/
def bufferLen : Nat := 512

/-- The byte last written to a position; none while the block has written none there. -/
def Memory.read (m : Memory) (a : Nat) : Option Byte :=
  match m with
  | [] => none
  | (k, v) :: rest => if a = k then some v else Memory.read rest a

/-- Write one byte, keeping the cells in rising order of address. -/
def Memory.write (m : Memory) (a : Nat) (b : Byte) : Memory :=
  match m with
  | [] => [(a, b)]
  | (k, v) :: rest =>
    if a < k then (a, b) :: (k, v) :: rest
    else if a = k then (a, b) :: rest
    else (k, v) :: Memory.write rest a b

/-- Every address of `m` is above `lo`, strictly rising, and names a position of the buffer. -/
def Memory.risesFrom (lo : Nat) (m : Memory) : Bool :=
  match m with
  | [] => true
  | (k, _) :: rest => decide (lo ≤ k) && decide (k < bufferLen) && Memory.risesFrom (k + 1) rest

/-- The canonical form: addresses strictly rising and inside the buffer. (An unlisted address has
no value, so no entry can be equal to what it reads as.) -/
def Memory.wf (m : Memory) : Bool := Memory.risesFrom 0 m

/-- `MemWrite(buffer + i, 1, v)` (R205): positions 0 to 511 only. -/
def State.memWrite (i : Nat) (b : Byte) (s : State) : State :=
  if i < bufferLen then { s with buffer := Memory.write s.buffer i b } else s

/-! ## The environment's draws (R6, R40) -/

/-- The byte the card answers in the coming transfer. -/
def State.cardByte (s : State) : Byte :=
  match s.env.cardIn with
  | b :: _ => b
  | [] => Config.cardByte s.env.transfers

/-- The delay of the coming `Arm` in sequencer steps. -/
def State.nextDelay (s : State) : Nat :=
  match s.env.expiryIn with
  | d :: _ => d
  | [] => Config.expiryDelay s.env.arms

/-! ## Bus Transport (R140 to R147) -/

/-- `Select()` of the operation itself (R140): the level is saved in `prior[0]`. -/
def State.selectOuter (s : State) : State :=
  { s with bt.csAsserted := true, w.priorOuter := s.bt.csAsserted }

/-- `Restore(p)` of the operation itself (R141). -/
def State.restoreOuter (s : State) : State :=
  { s with bt.csAsserted := s.w.priorOuter }

/-- `Select()` of the command transaction (R140): the level is saved in `prior[1]`. -/
def State.selectInner (s : State) : State :=
  { s with bt.csAsserted := true, w.priorInner := s.bt.csAsserted }

/-- `Restore(p)` of the command transaction (R141). -/
def State.restoreInner (s : State) : State :=
  { s with bt.csAsserted := s.w.priorInner }

/-- `Xfer(b)` (R142): one exchange, recorded as an event. The byte received is `s.cardByte`. -/
def State.xfer (b : Byte) (s : State) : State :=
  { s with
    trace := s.trace ++ [⟨s.bt.csAsserted, s.bt.divider, b, s.cardByte⟩]
    env.cardIn := s.env.cardIn.tail
    env.transfers := s.env.transfers + 1 }

/-- `SetDivider(d)` (R146). -/
def State.setDivider (d : Divider) (s : State) : State := { s with bt.divider := d }

/-- `Enable()` (R147). -/
def State.enable (s : State) : State := { s with bt.enabled := true }

/-- `Disable()` (R147). -/
def State.disable (s : State) : State := { s with bt.enabled := false }

/-! ## The Timeout Guard (R152 to R158) -/

/-- `Arm(deadline)` (R152): clears the flag and starts the countdown in one indivisible step. The
deadline is used for nothing (R157); the number of steps the handler waits is the environment's. -/
def State.arm (_deadline : Nat) (s : State) : State :=
  { s with
    tg.expired := false
    tg.armed := true
    env.countdown := s.nextDelay
    env.expiryIn := s.env.expiryIn.tail
    env.arms := s.env.arms + 1 }

/-- `Disarm()` (R153): the flag is untouched. -/
def State.disarm (s : State) : State := { s with tg.armed := false }

/-- `Expired()` (R154): the only read of the flag. -/
def State.hasExpired (s : State) : Bool := s.tg.expired

/-- The expiry handler's one step (R156). -/
def State.expiryHandler (s : State) : State := { s with tg.expired := true, tg.armed := false }

/-- Does the handler take the next step: the guard is armed and its delay has run out (R157). -/
def State.handlerDue (s : State) : Bool := s.tg.armed && s.env.countdown == 0

/-- One sequencer step passes while the guard is armed (R157). -/
def State.tick (s : State) : State :=
  if s.tg.armed then { s with env.countdown := s.env.countdown - 1 } else s

/-! ## Results and aborts -/

/-- Return to the host (R254): the result is delivered, `seq` is `Idle`, and no working register
survives (R31; log entry 7). -/
def State.deliver (r : HostResult) (s : State) : State :=
  { s with seq := .idle, cmdSeq := .select, w := Work.reset, host.result := r }

/-- Where an abort goes first, by the position of the `raise` (R252): (1) `Disarm()` inside
`Initialize` step 4 and the start-token wait, (2) `Restore(p)` once `ReadBlock` has selected, else at
once to (3) and (4), the delivery of `Err(kind)`. -/
def Pos.abort : Pos → Pos
  | .initS4Test => .initAbort
  | .initS4PrefixCheck => .initAbort
  | .initS4InitCheck => .initAbort
  | .readCheck => .readFail
  | .readStatusCheck => .readAbortRestore
  | .readWaitTest => .readAbortDisarm
  | _ => .initFail

/-- `raise Fail(k)` (R252): the kind stands in `kind` (R31) and the operation's release actions, each a
step of its own, are next. -/
def State.raise (k : ErrorKind) (s : State) : State :=
  { s with seq := s.seq.abort, w.kind := k }

/-! ## The host's turn (R6, R33) -/

/-- What the host does at its turn: its next move, none when it makes none. -/
def State.hostMove (s : State) : Option HostMove :=
  match s.env.hostIn with
  | m :: _ => m
  | [] => Config.hostMove s.env.turns

/-- One turn of the host has passed. -/
def State.turn (s : State) : State :=
  { s with env.hostIn := s.env.hostIn.tail, env.turns := s.env.turns + 1 }

/-- The host presents a request (R33). -/
def State.present (r : Request) (s : State) : State := { s with host.request := some r }

/-- An outer context of the host puts the line to a level, by the transport's `Select` or `Restore`
(R27, R140, R141). -/
def State.hostLine (asserted : Bool) (s : State) : State := { s with bt.csAsserted := asserted }

/-- The host supplies another region (R52): no position of it has a value in the model. -/
def State.newBuffer (s : State) : State := { s with buffer := [] }

end Sys2Proof.Machine
end

