-- ==== Sys2Proof/Machine/InitSequencer.lean ====
section
/-! DEFINITION. The Initialization Sequencer (spec/43_initialize.md): the lines of `Initialize` that are
no command transaction, the pure computations apart from the steps (R9). -/

namespace Sys2Proof.Machine

/-! ## The pure computations -/

/-- Step 3's comparisons (R174) of what CMD8's transaction returned. -/
def State.probeDecision (c : Params) (s : State) : State :=
  match s.w.kind with
  | .idle =>
    if echoMatches c s.w.payload then { s with seq := .initS3V2 } else s.raise .invalidVoltageRange
  | .illegalCommand => { s with seq := .initS3V1 }
  | .noResponse => { s with seq := .initS3V1 }
  | k => s.raise k.reported

/-- "if DS.addressing_mode = byte: step 6" (R177, R181). -/
def State.modeDecision (s : State) : State :=
  match s.ds.addressingMode with
  | .byte => { s with seq := .initS6Blocklen }
  | .block => { s with seq := .initS7Speed }

/-- "if card_version = v2: step 5" (R176, R181). -/
def State.versionDecision (s : State) : State :=
  match s.w.cardVersion with
  | .v2 => { s with seq := .initS5Ocr }
  | .v1 => s.modeDecision

/-- The comparisons of step 4's second command (R175). -/
def State.negotiationDecision (s : State) : State :=
  match s.w.kind with
  | .ok => { s with seq := .initS4Disarm }
  | .idle => { s with seq := .initS4Test }
  | k => s.raise k

/-- The pure computation at a position of `Initialize`: which line's step is next (R173 to R177). -/
def initDecision (c : Params) (s : State) : State :=
  match s.seq with
  | .initS2Check =>
    if s.w.kind = .idle then { s with seq := .initS3Probe } else s.raise s.w.kind.reported
  | .initS3Check => s.probeDecision c
  | .initS4PrefixCheck =>
    if s.w.kind.benign then { s with seq := .initS4Init } else s.raise s.w.kind
  | .initS4InitCheck => s.negotiationDecision
  | .initVersionCheck => s.versionDecision
  | .initS5Check =>
    if s.w.kind.benign then { s with seq := .initS5Mode } else s.raise s.w.kind
  | .initModeCheck => s.modeDecision
  | .initS6Check =>
    if s.w.kind = .ok then { s with seq := .initS7Speed } else s.raise s.w.kind.reported
  | _ => s

/-! ## The steps -/

/-- A counted run of transfers of the fill byte: one transfer, and on from it to `next` after the
`n`-th (R172, R206). That `byte_count` is 0 again after it is DESIGN CHOICE (log entry 31). -/
def State.clockFill (c : Params) (n : Nat) (next : Pos) (s : State) : State :=
  if s.w.byteCount.toNat + 1 < n then { s.xfer c.fill with w.byteCount := s.w.byteCount + 1#10 }
  else { s.xfer c.fill with w.byteCount := 0#10, seq := next }

/-- `Init.s4_test`: `Expired()` (R154, R175). -/
def State.negotiationTest (s : State) : State :=
  if s.hasExpired then s.raise .timeout else { s with seq := .initS4Prefix }

/-- One step of `Initialize` at a position that is no command transaction (R171 to R179). -/
def initStep (c : Params) (s : State) : State :=
  match s.seq with
  | .initEntryClear => { s with ds.initialized := false, seq := .initEntryEnable }
  | .initEntryEnable => { s.enable with seq := .initEntryDivider }
  | .initEntryDivider => { s.setDivider .slow with seq := .initS1High }
  | .initS1High => s.clockFill c c.powerOnFillHigh .initS1Select
  | .initS1Select => { s.selectOuter with seq := .initS1Low }
  | .initS1Low => s.clockFill c c.powerOnFillLow .initS1Restore
  | .initS1Restore => { s.restoreOuter with seq := .initS2Reset }
  | .initS3V2 => { s with w.cardVersion := .v2, seq := .initS4Arm }
  | .initS3V1 => { s with w.cardVersion := .v1, seq := .initS3Byte }
  | .initS3Byte => { s with ds.addressingMode := .byte, seq := .initS4Arm }
  | .initS4Arm => { s.arm Config.negotiationDeadline with seq := .initS4Test }
  | .initS4Test => s.negotiationTest
  | .initS4Disarm => { s.disarm with seq := .initVersionCheck }
  | .initS5Mode => { s with ds.addressingMode := ocrMode c s.w.payload, seq := .initModeCheck }
  | .initS7Speed => { s.setDivider .fast with seq := .initDone }
  | .initDone => { s with ds.initialized := true, seq := .initReturn }
  | .initReturn => s.deliver .ok
  | .initAbort => { s.disarm with seq := .initFail }
  | .initFail => s.deliver (.err s.w.kind)
  | _ => s

end Sys2Proof.Machine
end

