-- ==== Sys2Proof/Machine/BlockReader.lean ====
section
/-! DEFINITION. The Block Reader (spec/44_read_block.md): the lines of `ReadBlock` that are no command
transaction, the pure computations apart from the steps (R9). -/

namespace Sys2Proof.Machine

/-! ## The pure computations -/

/-- `Read.check` (R201), and the address of the accepted block number (R202). -/
def State.readCheck (s : State) : State :=
  if s.ds.initialized then
    { s with w.address := translate s.ds.addressingMode s.host.blockNumber, seq := .readSelect }
  else s.raise .notInitialized

/-- `if b = START_TOKEN: break` (R204): every byte but the token is discarded (R83). -/
def State.tokenDecision (c : Params) (s : State) : State :=
  if s.w.waitByte = c.startToken then { s with seq := .readWaitDisarm }
  else { s with seq := .readWaitTest }

/-- The pure computation at a position of `ReadBlock`: which line's step is next (R201 to R204). -/
def readDecision (c : Params) (s : State) : State :=
  match s.seq with
  | .readCheck => s.readCheck
  | .readStatusCheck =>
    if s.w.kind = .ok then { s with seq := .readArm } else s.raise s.w.kind.reported
  | .readWaitCheck => s.tokenDecision c
  | _ => s

/-! ## The steps -/

/-- The start-token wait's `Expired()` (R204). -/
def State.waitTest (s : State) : State :=
  if s.hasExpired then s.raise .timeout else { s with seq := .readWaitXfer }

/-- `b = Xfer(0xFF)` of the start-token wait (R204). -/
def State.waitXfer (c : Params) (s : State) : State :=
  { s.xfer c.fill with w.waitByte := s.cardByte, seq := .readWaitCheck }

/-- `Read.data` (R205): one received byte to the next position of the buffer. That `byte_count` is 0 again
after the last one, so that 512 never stands in it, is DESIGN CHOICE (log entry 31). -/
def State.dataXfer (c : Params) (s : State) : State :=
  let t := (s.xfer c.fill).memWrite s.w.byteCount.toNat s.cardByte
  if s.w.byteCount.toNat + 1 < c.sectorLen then { t with w.byteCount := s.w.byteCount + 1#10 }
  else { t with w.byteCount := 0#10, seq := .readTrailer }

/-- One step of `ReadBlock` at a position that is no command transaction (R203 to R208, R252). -/
def readStep (c : Params) (s : State) : State :=
  match s.seq with
  | .readSelect => { s.selectOuter with seq := .readCommand }
  | .readArm => { s.arm Config.readDeadline with seq := .readWaitTest }
  | .readWaitTest => s.waitTest
  | .readWaitXfer => s.waitXfer c
  | .readWaitDisarm => { s.disarm with seq := .readData }
  | .readData => s.dataXfer c
  | .readTrailer => s.clockFill c c.trailerLen .readRelease
  | .readRelease => { s.restoreOuter with seq := .readReturn }
  | .readReturn => s.deliver .ok
  | .readAbortDisarm => { s.disarm with seq := .readAbortRestore }
  | .readAbortRestore => { s.restoreOuter with seq := .readFail }
  | .readFail => s.deliver (.err s.w.kind)
  | _ => s

end Sys2Proof.Machine
end

