-- ==== Sys2Proof/Machine/StatusQuery.lean ====
section
/-! DEFINITION. Status Query and Shutdown (spec/45_status_and_shutdown.md): their steps that are no
command transaction. -/

namespace Sys2Proof.Machine

/-- What `IsReady` answers (R220, R221): every non-benign kind is "not ready". -/
def State.readiness (c : Params) (s : State) : Bool := s.w.kind.benign && ocrReady c s.w.payload

/-- One step of `IsReady` or `Shutdown` at a position that is no command transaction. That the return of
`Shutdown`, to which R224 gives no line, is a step is DESIGN CHOICE (log entry 8). -/
def queryStep (c : Params) (s : State) : State :=
  match s.seq with
  | .readyReport => s.deliver (.ready (s.readiness c))
  | .shutDisable => { s.disable with seq := .shutReturn }
  | .shutReturn => s.deliver .none
  | _ => s

end Sys2Proof.Machine
end

