-- ==== Sys2Proof/Machine/Transaction.lean ====
section
/-! DEFINITION. The command transaction `Command` (R149 of spec/42_transaction_and_timeout.md): select,
send the frame, poll for the status, take the payload if any, restore, return to the caller; the pure
computations apart from the steps (R9). And a command called on its own, outside a host operation. -/

namespace Sys2Proof.Machine

/-- The operands of a command called on its own (R103 to R107, R109). -/
def CardCommand.command (c : Params) (address : Word) : CardCommand → Command
  | .reset => resetCommand c
  | .ifCond => ifCondCommand c
  | .setBlocklen => setBlocklenCommand c
  | .readSingle => readSingleCommand c address
  | .appPrefix => appPrefixCommand c
  | .readOcr => readOcrCommand c

/-- The command a position sends: R173 to R177, R203, R220; none at a position that is no call of
`Command`. No position sends a command outside R79 (R59, R81). -/
def State.callOf (c : Params) (s : State) : Option Command :=
  match s.seq with
  | .frameCommand k => some (k.command c s.w.address)
  | .framePrefix _ => some (appPrefixCommand c)
  | .frameInit hcs => some (appInitCommand c hcs)
  | .initS2Reset => some (resetCommand c)
  | .initS3Probe => some (ifCondCommand c)
  | .initS4Prefix => some (appPrefixCommand c)
  | .initS4Init => some (appInitCommand c (s.w.cardVersion = .v2))
  | .initS5Ocr => some (readOcrCommand c)
  | .initS6Blocklen => some (setBlocklenCommand c)
  | .readCommand => some (readSingleCommand c s.w.address)
  | .readyCommand => some (readOcrCommand c)
  | _ => none

/-- The line that follows a call of `Command`. -/
def Pos.afterCall : Pos → Pos
  | .frameCommand _ => .frameReturn
  | .framePrefix hcs => .framePrefixCheck hcs
  | .frameInit _ => .frameReturn
  | .initS2Reset => .initS2Check
  | .initS3Probe => .initS3Check
  | .initS4Prefix => .initS4PrefixCheck
  | .initS4Init => .initS4InitCheck
  | .initS5Ocr => .initS5Check
  | .initS6Blocklen => .initS6Check
  | .readCommand => .readStatusCheck
  | .readyCommand => .readyReport
  | p => p

/-! ## The pure computations -/

/-- `Encode(index, arg, check)` (R100), before the first byte is sent. -/
def State.encodeFirst (s : State) : State :=
  if s.w.byteCount = 0#10 then
    { s with w.frame := encodeFrame ⟨s.w.cmdIndex, s.w.cmdArg, s.w.cmdChk⟩ }
  else s

/-- The comparison of the polled byte (R120): the poll ends at the first byte that is not fill, and after
the last byte it may take. -/
def State.pollDecision (c : Params) (s : State) : State :=
  if s.w.status = c.fill ∧ s.w.pollCount.toNat < c.responsePollLimit then { s with cmdSeq := .poll }
  else { s with cmdSeq := .pollReturn }

/-- The payload is read when the command has one and the kind is benign (R123, R149). -/
def State.payloadDecision (c : Params) (s : State) : State :=
  if s.w.kind.benign ∧ 0 < payloadLen c s.w.cmdIndex then { s with cmdSeq := .payload }
  else { s with cmdSeq := .restore }

/-- The pure computation at a place inside a transaction. -/
def commandDecision (c : Params) (s : State) : State :=
  match s.cmdSeq with
  | .send => s.encodeFirst
  | .polled => s.pollDecision c
  | .statusTaken => s.payloadDecision c
  | _ => s

/-- The pure computation of the pair ACMD41 called on its own: index 41 is sent after a benign status
of the prefix only (R80, R175). -/
def frameDecision (s : State) : State :=
  match s.seq with
  | .framePrefixCheck hcs =>
    if s.w.kind.benign then { s with seq := .frameInit hcs } else { s with seq := .frameReturn }
  | _ => s

/-! ## The steps -/

/-- `Cmd.select`: chip-select is taken. DESIGN CHOICE: in this step the operands come to stand in their
registers, and the counters and the payload are emptied (log entry 33). -/
def State.cmdSelect (k : Command) (s : State) : State :=
  { s.selectInner with
    cmdSeq := .send
    w.cmdIndex := k.index
    w.cmdArg := k.arg
    w.cmdChk := k.check
    w.payload := 0#32
    w.payloadHeld := false
    w.pollCount := 0#4
    w.byteCount := 0#10 }

/-- `Cmd.send`: one byte of the frame, what is received discarded (R143). That `byte_count` is 0 again after
the last one is DESIGN CHOICE (log entry 31). -/
def State.cmdSend (c : Params) (s : State) : State :=
  if s.w.byteCount.toNat + 1 < c.frameLen then
    { s.xfer (frameByte s.w.frame s.w.byteCount.toNat) with w.byteCount := s.w.byteCount + 1#10 }
  else
    { s.xfer (frameByte s.w.frame s.w.byteCount.toNat) with w.byteCount := 0#10, cmdSeq := .poll }

/-- `Cmd.poll`: one polled byte (R120). DESIGN CHOICE: `PollStatus`'s local `b`, which R31 gives no register
of its own, stands in `status` from the step of its transfer on, a fill byte too (log entry 33). -/
def State.cmdPoll (c : Params) (s : State) : State :=
  { s.xfer c.fill with
    w.status := s.cardByte, w.pollCount := s.w.pollCount + 1#4, cmdSeq := .polled }

/-- `PollStatus` returns: the byte found stands in `status`, and is the fill byte when none was (R120). -/
def State.cmdPollReturn (s : State) : State := { s with cmdSeq := .statusReturn }

/-- `Status` returns the kind (R126, R121). -/
def State.cmdStatusReturn (c : Params) (s : State) : State :=
  { s with
    w.kind := if s.w.status = c.fill then .noResponse else decodeStatus s.w.status
    cmdSeq := .statusTaken }

/-- `Cmd.payload`: one payload byte, put in its place (R123, R145, R55). DESIGN CHOICE: the bytes `r0` to
`r3`, which R31 gives no register, are gathered in `payload` as they come (log entry 32), and after the
last one `byte_count` keeps its number until the transaction returns (log entry 31). -/
def State.cmdPayload (c : Params) (s : State) : State :=
  let t := { s.xfer c.fill with
    w.payload := s.w.payload ||| payloadPlace c.payloadWireOrder s.w.byteCount.toNat s.cardByte }
  if s.w.byteCount.toNat + 1 < c.payloadBytes then { t with w.byteCount := s.w.byteCount + 1#10 }
  else { t with cmdSeq := .payloadReturn }

/-- `ReadPayload` returns (R123): what `payload` has gathered is the assembled value, and now counts as held
(log entry 32). -/
def State.cmdPayloadReturn (s : State) : State :=
  { s with w.payloadHeld := true, cmdSeq := .restore }

/-- What is left of a transaction when it returns: the kind and the payload, nothing else (R124;
the frame is "never stored", R101). -/
def Work.afterTransaction (w : Work) : Work :=
  { w with
    frame := 0#48
    cmdIndex := 0#6
    cmdArg := 0#32
    cmdChk := 0#7
    status := 0#8
    pollCount := 0#4
    byteCount := 0#10
    priorInner := false }

/-- `Cmd.restore` (R141, R149). -/
def State.cmdRestore (s : State) : State := { s.restoreInner with cmdSeq := .callReturn }

/-- `return (kind, payload)` (R149): the caller's next line is next. -/
def State.cmdReturn (s : State) : State :=
  { s with seq := s.seq.afterCall, cmdSeq := .select, w := s.w.afterTransaction }

/-- One step of the transaction sending `k`. (At a pure place no step is taken: `commandDecision` goes on
from it to the line that is next.) -/
def transactionStep (c : Params) (k : Command) (s : State) : State :=
  match s.cmdSeq with
  | .select => s.cmdSelect k
  | .send => s.cmdSend c
  | .poll => s.cmdPoll c
  | .polled => s
  | .pollReturn => s.cmdPollReturn
  | .statusReturn => s.cmdStatusReturn c
  | .statusTaken => s
  | .payload => s.cmdPayload c
  | .payloadReturn => s.cmdPayloadReturn
  | .restore => s.cmdRestore
  | .callReturn => s.cmdReturn

/-- Does the step at a place inside a transaction use `Select`, `Xfer` or `Restore` (R159): every one but
the returns does. -/
def CmdPos.usesBus : CmdPos → Bool
  | .pollReturn => false
  | .statusReturn => false
  | .payloadReturn => false
  | .callReturn => false
  | _ => true

/-- The return of a command called on its own: its kind and payload stand in their registers. DESIGN
CHOICE: it is a step, and it clears the other working registers (log entries 4, 7). -/
def frameStep (s : State) : State :=
  match s.seq with
  | .frameReturn =>
    { s with
      seq := .idle
      w := { Work.reset with
        kind := s.w.kind, payload := s.w.payload, payloadHeld := s.w.payloadHeld } }
  | _ => s

end Sys2Proof.Machine
end

