-- ==== Sys2Proof/Machine/Sequencer.lean ====
section
/-! DEFINITION. The agents' steps at the level of R7 and R9: one sequencer step is one line of the
pseudocode, with the pure computations before it; between any two of them the expiry handler may take
its step (R156). The run of an operation is the run of these steps until the sequencer rests. -/

namespace Sys2Proof.Machine

/-- The positions at which the sequencer takes no step of its own. -/
def Pos.resting : Pos → Bool
  | .idle => true
  | .frameFetch _ => true
  | _ => false

/-- The pure computation of the operation at its position (R9). -/
def operationDecision (c : Params) (s : State) : State :=
  match s.seq with
  | .readCheck => readDecision c s
  | .readStatusCheck => readDecision c s
  | .readWaitCheck => readDecision c s
  | .framePrefixCheck _ => frameDecision s
  | _ => initDecision c s

/-- The pure computations that are part of the next step (R9), made: the operation's, then those inside
the transaction. What comes out stands at the line whose step is next. -/
def State.computed (c : Params) (s : State) : State := commandDecision c (operationDecision c s)

/-- The step of the line at the position: the transaction's at a call of `Command`, else the
operation's own. -/
def lineStep (c : Params) (s : State) : State :=
  match s.callOf c with
  | some k => transactionStep c k s
  | none =>
    match s.seq with
    | .frameReturn => frameStep s
    | .readyReport => queryStep c s
    | .shutDisable => queryStep c s
    | .shutReturn => queryStep c s
    | .readSelect => readStep c s
    | .readArm => readStep c s
    | .readWaitTest => readStep c s
    | .readWaitXfer => readStep c s
    | .readWaitDisarm => readStep c s
    | .readData => readStep c s
    | .readTrailer => readStep c s
    | .readRelease => readStep c s
    | .readReturn => readStep c s
    | .readAbortDisarm => readStep c s
    | .readAbortRestore => readStep c s
    | .readFail => readStep c s
    | _ => initStep c s

/-- One step of the sequencer (R9). -/
def sequencerStep (c : Params) (s : State) : State :=
  if s.seq.resting then s else lineStep c (s.computed c)

/-- One step of one agent: the handler when its moment has come, else the sequencer (R9, R156). -/
def busStep (c : Params) (s : State) : State :=
  if s.handlerDue then s.expiryHandler else sequencerStep c s.tick

/-- At most `n` agents' steps, stopping when the sequencer rests. -/
def runSteps (c : Params) : Nat → State → State
  | 0, s => s
  | n + 1, s => if s.seq.resting then s else runSteps c n (busStep c s)

/-- A number of steps within which every operation begun in a resting state returns: the delay of
its one `Arm` and every counted loop (R251, R290; log entry 2). -/
def State.fuel (c : Params) (s : State) : Nat :=
  s.nextDelay +
    (7 * (c.frameLen + c.responsePollLimit + c.payloadBytes + 6) +
      c.powerOnFillHigh + c.powerOnFillLow + c.sectorLen + c.trailerLen + 30)

/-- The state in which an operation's first line is next, with nothing in the working registers but
what the caller gives (R31; that they are cleared there is DESIGN CHOICE, log entry 7). -/
def State.startAt (p : Pos) (w : Work) (s : State) : State :=
  { s with seq := p, cmdSeq := .select, w := w }

/-- Begin at a position and run until the sequencer rests. -/
def State.runFrom (c : Params) (p : Pos) (w : Work) (s : State) : State :=
  runSteps c (s.fuel c) (s.startAt p w)

/-- Does the step of the line at the position use `Select`, `Restore` or `Xfer` (R159). -/
def State.lineUsesBus (c : Params) (s : State) : Bool :=
  ((s.callOf c).isSome && s.cmdSeq.usesBus) ||
  match s.seq with
  | .initS1High => true
  | .initS1Select => true
  | .initS1Low => true
  | .initS1Restore => true
  | .readSelect => true
  | .readWaitXfer => true
  | .readData => true
  | .readTrailer => true
  | .readRelease => true
  | .readAbortRestore => true
  | _ => false

/-- Does the sequencer's next step use the bus (R159). -/
def State.usesBus (c : Params) (s : State) : Bool := (s.computed c).lineUsesBus c

end Sys2Proof.Machine
end

