-- ==== Sys2Proof/Machine/Commands.lean ====
section
/-! DEFINITION. The meanings of the card command rows (spec/40_command_encoder.md): the seven commands
of R79 as the transaction `Command` of R149 called on its own (log entry 4), and the generic row as the
encoder R100 alone. Inside a host operation the sequencer calls the same transaction. -/

namespace Sys2Proof.Machine

/-- What runs outside a host operation runs while none is in progress (R148, U8). -/
def State.whenResting (s : State) (run : State) : Host.Outcome State Fault Refusal :=
  if s.seq.resting then .next run else .refused .operationInProgress

/-- A transaction called on its own: refused while an operation is in progress, or the transport is
disabled (R159). -/
def State.callAlone (s : State) (run : State) : Host.Outcome State Fault Refusal :=
  if s.seq.resting = true ∧ s.bt.enabled = false then .refused .transportDisabled
  else s.whenResting run

/-- `Command(index, arg, check, PAYLOAD_LEN)` (R149) for a command of R79. -/
def State.runCommand (c : Params) (k : CardCommand) (s : State) : State :=
  s.runFrom c (.frameCommand k) Work.reset

/-- CMD0, the reset command (R103). -/
def execCmd0 (s : State) : Host.Outcome State Fault Refusal :=
  s.callAlone (s.runCommand params .reset)

/-- CMD8, the interface-condition command (R104). -/
def execCmd8 (s : State) : Host.Outcome State Fault Refusal :=
  s.callAlone (s.runCommand params .ifCond)

/-- CMD16, the set-block-length command (R105). -/
def execCmd16 (s : State) : Host.Outcome State Fault Refusal :=
  s.callAlone (s.runCommand params .setBlocklen)

/-- CMD17, the single-block-read command (R106). The data block that follows it is `ReadBlock`'s
business (R203 to R206). -/
def execCmd17 (address : Word) (s : State) : Host.Outcome State Fault Refusal :=
  s.callAlone (s.runFrom params (.frameCommand .readSingle) { Work.reset with address := address })

/-- CMD55, the application-command prefix (R107). -/
def execCmd55 (s : State) : Host.Outcome State Fault Refusal :=
  s.callAlone (s.runCommand params .appPrefix)

/-- ACMD41 (R80, R87, R108): the pair CMD55 and the frame with index 41, the second only after a
benign status of the first (R175, D14). -/
def execAcmd41 (hcs : Bool) (s : State) : Host.Outcome State Fault Refusal :=
  s.callAlone (s.runFrom params (.framePrefix hcs) Work.reset)

/-- CMD58, the operating-conditions-register read command (R109). -/
def execCmd58 (s : State) : Host.Outcome State Fault Refusal :=
  s.callAlone (s.runCommand params .readOcr)

/-- `Encode` called on its own: the frame is returned to its caller, who is outside the block, and nothing
of the block is written (R100 "State written: none", R101 "never stored"); control is back at `Idle`. -/
def State.encodeAlone (k : Command) (s : State) : State :=
  { s with seq := .idle, cmdSeq := .select, env.encoded := some (encodeFrame k) }

/-- A frame of any other operands: the encoder accepts them, and the sequencer has no way to send them
(R81, R100, U12). So the row's effect is the encoder's: the frame is returned to its caller, nothing is transferred. -/
def execCmdGeneric (index : BitVec 6) (arg : Word) (check : BitVec 7) (s : State) :
    Host.Outcome State Fault Refusal :=
  s.whenResting (s.encodeAlone ⟨index, arg, check⟩)

end Sys2Proof.Machine
end

