-- ==== Sys2Proof/Machine/HostOperations.lean ====
section
/-! DEFINITION. The meanings of the four host operations (R170, R208, R220, R224): the request is
accepted only when `seq = Idle` (R33), and the operation is run to its return. -/

namespace Sys2Proof.Machine

/-- A host request is accepted only when `seq = Idle` (R33); otherwise the model refuses it (U8). -/
def State.whenIdle (s : State) (run : State) : Host.Outcome State Fault Refusal :=
  if s.seq = .idle then .next run else .refused .operationInProgress

/-- `ReadBlock` and `IsReady` have no meaning while the transport is disabled, whatever else holds: the
model refuses them (R29, R159, U6). -/
def State.whenEnabled (s : State) (run : State) : Host.Outcome State Fault Refusal :=
  if s.seq = .idle ∧ s.bt.enabled = false then .refused .transportDisabled else s.whenIdle run

/-- `Initialize()` (R170 to R181). With chip-select asserted at entry it is refused (R171, U7). -/
def execInitialize (s : State) : Host.Outcome State Fault Refusal :=
  if s.seq = .idle ∧ s.bt.csAsserted = true then .refused .selectedAtEntry
  else s.whenIdle (s.runFrom params .initEntryClear Work.reset)

/-- `ReadBlock(blockNumber, buffer)` (R200 to R210). -/
def execReadBlock (blockNumber : Word) (s : State) : Host.Outcome State Fault Refusal :=
  s.whenEnabled ({ s with host.blockNumber := blockNumber }.runFrom params .readCheck Work.reset)

/-- `IsReady()` (R220 to R223). -/
def execIsReady (s : State) : Host.Outcome State Fault Refusal :=
  s.whenEnabled (s.runFrom params .readyCommand Work.reset)

/-- `Shutdown()` (R224, R225). -/
def execShutdown (s : State) : Host.Outcome State Fault Refusal :=
  s.whenIdle (s.runFrom params .shutDisable Work.reset)

end Sys2Proof.Machine
end

