-- ==== Sys2Proof/Machine/Dispatch.lean ====
section
/-! DEFINITION. Which meaning each instruction has, one arm per constructor of `Instr`. -/

namespace Sys2Proof.Machine

def exec (i : Instr) (s : State) : Host.Outcome State Fault Refusal :=
  match i with
  | .cmd0 => Sys2Proof.Machine.execCmd0 s
  | .cmd8 => Sys2Proof.Machine.execCmd8 s
  | .cmd16 => Sys2Proof.Machine.execCmd16 s
  | .cmd17 address => Sys2Proof.Machine.execCmd17 address s
  | .cmd55 => Sys2Proof.Machine.execCmd55 s
  | .acmd41 hcs => Sys2Proof.Machine.execAcmd41 hcs s
  | .cmd58 => Sys2Proof.Machine.execCmd58 s
  | .cmdGeneric index arg check => Sys2Proof.Machine.execCmdGeneric index arg check s
  | .opInitialize => Sys2Proof.Machine.execInitialize s
  | .opReadBlock blockNumber => Sys2Proof.Machine.execReadBlock blockNumber s
  | .opIsReady => Sys2Proof.Machine.execIsReady s
  | .opShutdown => Sys2Proof.Machine.execShutdown s

end Sys2Proof.Machine
end

