-- ==== Sys2Proof/Machine/Fetch.lean ====
section
/-! DEFINITION. Where an instruction comes from, for `step`: the host's request port at `Idle` (R33), at
which the host has its turn while no request is presented (R6), or the position `frameFetch` for a frame
run on its own. -/

namespace Sys2Proof.Machine

/-- The host's turn, which it has at `Idle` only (R6, R33): it presents a request, moves the line around
its operations, supplies a buffer, or makes no move and the block waits (R272). A move of the line on a
disabled transport has no meaning (R159). -/
def hostStep (s : State) : Host.Outcome State Fault Refusal :=
  match s.hostMove with
  | none => .next s.turn
  | some (.request r) => .next (s.turn.present r)
  | some (.line asserted) =>
    if s.bt.enabled then .next (s.turn.hostLine asserted) else .refused .transportDisabled
  | some .buffer => .next s.turn.newBuffer

/-- `Idle`: accept the presented request (R33); with none, the host's turn. The meaning of instructions
is the argument `run`. -/
def idleStep (run : Instr → State → Host.Outcome State Fault Refusal) (s : State) :
    Host.Outcome State Fault Refusal :=
  match s.host.request with
  | none => if s.handlerDue then .next s.expiryHandler else hostStep s.tick
  | some r => run (decodeRequest r) { s with host.request := none }

/-- The word `w` is presented: decode it and run it, or refuse it (R71). -/
def fetchStep (run : Instr → State → Host.Outcome State Fault Refusal) (w : Frame) (s : State) :
    Host.Outcome State Fault Refusal :=
  match decodeFrame w with
  | .ok i => run i s
  | .error e => .refused (.notAFrame e)

/-- Inside an operation (R9): the handler's step, or the sequencer's. A request is refused (R33, U8),
the bus is not used while the transport is disabled (R159), and no byte is written outside the
buffer (R52); a run from reset meets none of the three. -/
def progressStep (s : State) : Host.Outcome State Fault Refusal :=
  if s.host.request.isSome then .refused .operationInProgress
  else if s.handlerDue then .next (busStep params s)
  else if s.usesBus params && !s.bt.enabled then .refused .transportDisabled
  else if s.seq = .readData ∧ ¬ s.w.byteCount.toNat < bufferLen then .fault .bufferPosition
  else .next (busStep params s)

/-- `s` with an instruction word standing where `step` finds it. -/
def State.standing (s : State) (u : Option InstrWord) : State :=
  match u with
  | some (.frame w) => { s with seq := .frameFetch w }
  | some (.request r) => { s with seq := .idle, host.request := some r }
  | none => s

end Sys2Proof.Machine
end

