-- ==== Sys2Proof/Machine/Step.lean ====
section
/-! DEFINITION. One step of the machine. -/

namespace Sys2Proof.Machine

/-- One step. At `Idle` a presented request is accepted and its operation run to its return (R33; that
this is one step of the machine is the model's choice, log entry 3); with none the host has its turn
(R6, R272). A frame presented to be run on its own is decoded and run (log entry 4). Inside an operation
one agent takes one step (R9). -/
def step (s : State) : Host.Outcome State Fault Refusal :=
  match s.seq with
  | .idle => idleStep exec s
  | .frameFetch w => fetchStep exec w s
  | _ => progressStep s

/-- `s` with the instruction of a table word standing where `step` finds its next one: a frame
presented to be run on its own, a host operation as the presented request. -/
def State.withFetchWord (s : State) (nbits w : Nat) : State := s.standing (tableWord nbits w)

end Sys2Proof.Machine
end

