-- ==== Sys2Proof/Safety.lean ====
section
/-! DEFINITION. The terms claims are made in: the invariants a safe run keeps, and what the rules
expect of an operation given the card's answers and the expiry moment, written from the pseudocode of
R149, R181, R208 and R220 over whole transactions. -/

namespace Sys2Proof.Machine

/-! ## Invariants -/

/-- The positions between an `Arm` and the end of the `Disarm` that answers it (R252, R277). -/
def Pos.guarded : Pos → Bool
  | .initS4Test => true
  | .initS4Prefix => true
  | .initS4PrefixCheck => true
  | .initS4Init => true
  | .initS4InitCheck => true
  | .initS4Disarm => true
  | .initAbort => true
  | .readWaitTest => true
  | .readWaitXfer => true
  | .readWaitCheck => true
  | .readWaitDisarm => true
  | .readAbortDisarm => true
  | _ => false

/-- The positions of the two guarded waits (R175, R204): only the guard ends them. -/
def Pos.waiting : Pos → Bool
  | .initS4Test => true
  | .initS4Prefix => true
  | .initS4PrefixCheck => true
  | .initS4Init => true
  | .initS4InitCheck => true
  | .readWaitTest => true
  | .readWaitXfer => true
  | .readWaitCheck => true
  | _ => false

/-- The guard's discipline: the flag is never up while the guard is armed (R158), the guard is armed
only between an `Arm` and its `Disarm` (R277), and inside a guarded wait it is armed or has expired. -/
def State.GuardDiscipline (s : State) : Prop :=
  (s.tg.expired = true → s.tg.armed = false) ∧
  (s.tg.armed = true → s.seq.guarded = true) ∧
  (s.seq.waiting = true → s.tg.armed = true ∨ s.tg.expired = true)

/-- The counters keep the ranges of R31, 0 to 10 and 0 to 512; while a status byte may still be
polled fewer than 10 have been (R120). That `byte_count` stays below 512 rests on its being 0 again once a
counted transfer is over (log entry 31). -/
def State.CountersInRange (s : State) : Prop :=
  s.w.pollCount.toNat ≤ 10 ∧
  (s.cmdSeq = .send ∨ s.cmdSeq = .poll → s.w.pollCount.toNat < 10) ∧
  s.w.byteCount.toNat < 512

/-- The positions that are calls of `Command` (R149). -/
def Pos.isCall : Pos → Bool
  | .frameCommand _ => true
  | .framePrefix _ => true
  | .frameInit _ => true
  | .initS2Reset => true
  | .initS3Probe => true
  | .initS4Prefix => true
  | .initS4Init => true
  | .initS5Ocr => true
  | .initS6Blocklen => true
  | .readCommand => true
  | .readyCommand => true
  | _ => false

/-- The chip-select level at a position, outside a transaction, where the rules fix it: released
throughout `Initialize` but for the two bytes of step 1 (R171, R172, R179), asserted in `ReadBlock`
from `Read.select` to its release (R207). -/
def Pos.line : Pos → Option Bool
  | .initEntryClear => some false
  | .initEntryEnable => some false
  | .initEntryDivider => some false
  | .initS1High => some false
  | .initS1Select => some false
  | .initS1Low => some true
  | .initS1Restore => some true
  | .initS2Reset => some false
  | .initS2Check => some false
  | .initS3Probe => some false
  | .initS3Check => some false
  | .initS3V2 => some false
  | .initS3V1 => some false
  | .initS3Byte => some false
  | .initS4Arm => some false
  | .initS4Test => some false
  | .initS4Prefix => some false
  | .initS4PrefixCheck => some false
  | .initS4Init => some false
  | .initS4InitCheck => some false
  | .initS4Disarm => some false
  | .initVersionCheck => some false
  | .initS5Ocr => some false
  | .initS5Check => some false
  | .initS5Mode => some false
  | .initModeCheck => some false
  | .initS6Blocklen => some false
  | .initS6Check => some false
  | .initS7Speed => some false
  | .initDone => some false
  | .initReturn => some false
  | .initAbort => some false
  | .initFail => some false
  | .readCommand => some true
  | .readStatusCheck => some true
  | .readArm => some true
  | .readWaitTest => some true
  | .readWaitXfer => some true
  | .readWaitCheck => some true
  | .readWaitDisarm => some true
  | .readData => some true
  | .readTrailer => some true
  | .readRelease => some true
  | .readAbortDisarm => some true
  | .readAbortRestore => some true
  | _ => none

/-- The places of a transaction between its `Select` and its `Restore`. -/
def CmdPos.selected : CmdPos → Bool
  | .select => false
  | .callReturn => false
  | _ => true

/-- Chip-select by position (R27, R150, R172, R207): outside a transaction's `Select` and `Restore` the
line is at the level its position fixes; between them it is asserted and the level of the caller is
saved; step 1 saved a released line. -/
def State.LineDiscipline (s : State) : Prop :=
  (s.cmdSeq.selected = false → ∀ l, s.seq.line = some l → s.bt.csAsserted = l) ∧
  (s.cmdSeq.selected = true → s.bt.csAsserted = true ∧ ∀ l, s.seq.line = some l → s.w.priorInner = l) ∧
  (s.cmdSeq ≠ .select → s.seq.isCall = true) ∧
  (s.seq = .initS1Low ∨ s.seq = .initS1Restore → s.w.priorOuter = false)

/-- The positions of `Initialize` after its first entry action and before its completion. -/
def Pos.negotiating : Pos → Bool
  | .initEntryEnable => true
  | .initEntryDivider => true
  | .initS1High => true
  | .initS1Select => true
  | .initS1Low => true
  | .initS1Restore => true
  | .initS2Reset => true
  | .initS2Check => true
  | .initS3Probe => true
  | .initS3Check => true
  | .initS3V2 => true
  | .initS3V1 => true
  | .initS3Byte => true
  | .initS4Arm => true
  | .initS4Test => true
  | .initS4Prefix => true
  | .initS4PrefixCheck => true
  | .initS4Init => true
  | .initS4InitCheck => true
  | .initS4Disarm => true
  | .initVersionCheck => true
  | .initS5Ocr => true
  | .initS5Check => true
  | .initS5Mode => true
  | .initModeCheck => true
  | .initS6Blocklen => true
  | .initS6Check => true
  | .initS7Speed => true
  | .initDone => true
  | .initAbort => true
  | .initFail => true
  | _ => false

/-- While `Initialize` is under way the driver is uninitialized (R21, R170). -/
def State.UninitializedWhileNegotiating (s : State) : Prop :=
  s.seq.negotiating = true → s.ds.initialized = false

/-- The commands fit the card (R176, R177, R182): the addressing query stands only for a version-2
card, the fixed block length only for byte addressing. -/
def State.CommandsFitTheCard (s : State) : Prop :=
  (s.seq = .initS5Ocr → s.w.cardVersion = .v2) ∧
  (s.seq = .initS6Blocklen → s.ds.addressingMode = .byte)

/-- Inside a transaction the operands stand in their registers as those of the command the position
sends, and once the first byte is sent the frame is their encoding (R149, R101). -/
def State.FrameFitsTheCaller (s : State) : Prop :=
  s.cmdSeq ≠ .select →
    s.callOf params = some ⟨s.w.cmdIndex, s.w.cmdArg, s.w.cmdChk⟩ ∧
    (s.cmdSeq = .send ∧ s.w.byteCount = 0#10 ∨
      s.w.frame = encodeFrame ⟨s.w.cmdIndex, s.w.cmdArg, s.w.cmdChk⟩)

/-- The state in which an instruction's first line is next. -/
def State.begun (i : Instr) (s : State) : State :=
  match i with
  | .cmd0 => s.startAt (.frameCommand .reset) Work.reset
  | .cmd8 => s.startAt (.frameCommand .ifCond) Work.reset
  | .cmd16 => s.startAt (.frameCommand .setBlocklen) Work.reset
  | .cmd17 address => s.startAt (.frameCommand .readSingle) { Work.reset with address := address }
  | .cmd55 => s.startAt (.frameCommand .appPrefix) Work.reset
  | .acmd41 hcs => s.startAt (.framePrefix hcs) Work.reset
  | .cmd58 => s.startAt (.frameCommand .readOcr) Work.reset
  | .cmdGeneric index arg check => s.encodeAlone ⟨index, arg, check⟩
  | .opInitialize => s.startAt .initEntryClear Work.reset
  | .opReadBlock blockNumber =>
    { s with host.blockNumber := blockNumber }.startAt .readCheck Work.reset
  | .opIsReady => s.startAt .readyCommand Work.reset
  | .opShutdown => s.startAt .shutDisable Work.reset

/-- The command of a row of R79 that is one frame, as its transaction sends it; none for the pair
ACMD41, for the generic frame, which is not sent (R81), and for a host operation. -/
def sentCommand (i : Instr) : Option Command :=
  match i with
  | .cmd0 => i.command
  | .cmd8 => i.command
  | .cmd16 => i.command
  | .cmd17 _ => i.command
  | .cmd55 => i.command
  | .acmd41 _ => none
  | .cmd58 => i.command
  | .cmdGeneric _ _ _ => none
  | .opInitialize => none
  | .opReadBlock _ => none
  | .opIsReady => none
  | .opShutdown => none

/-! ## What the rules expect, transaction by transaction -/

/-- The byte the card will answer to the `n`-th transfer from `s` on, counting from 0. -/
def State.answer (s : State) (n : Nat) : Byte :=
  s.env.cardIn.getD n (Config.cardByte (s.env.transfers + n))

/-- `PollStatus` (R120) over the bytes to come: how many are polled, and the status byte found. -/
def pollStatus (fill : Byte) : Nat → (Nat → Byte) → Nat × Option Byte
  | 0, _ => (0, none)
  | n + 1, bytes =>
    if bytes 0 ≠ fill then (1, some (bytes 0))
    else
      let later := pollStatus fill n (fun i => bytes (i + 1))
      (later.1 + 1, later.2)

/-- What a transaction gets back from the card (R126, R149). -/
structure Reply where
  /-- Bytes polled for the status, 1 to 10. -/
  polls : Nat
  /-- The kind `Status()` returns (R126). -/
  kind : ErrorKind
  /-- The payload, when it is read (R123). -/
  payload : Option Word
  deriving DecidableEq, Repr

/-- Transfers of the transaction: the frame, the polls, the payload (R149, R291). -/
def Reply.transfers (r : Reply) : Nat :=
  params.frameLen + r.polls + (if r.payload.isSome then params.payloadBytes else 0)

/-- The sequencer's steps of the transaction (R9): its transfers, `Select` and `Restore`, and the returns
of `PollStatus`, `Status`, `ReadPayload` if it is called, and `Command` itself. -/
def Reply.steps (r : Reply) : Nat := r.transfers + 5 + (if r.payload.isSome then 1 else 0)

/-- The reply to a command whose frame's first byte is the `start`-th transfer from `s` on. -/
def State.reply (s : State) (start : Nat) (index : BitVec 6) : Reply :=
  let poll := pollStatus params.fill params.responsePollLimit 
    (fun i => s.answer (start + params.frameLen + i))
  let kind := match poll.2 with
    | none => ErrorKind.noResponse
    | some b => decodeStatus b
  let after := start + params.frameLen + poll.1
  { polls := poll.1
    kind := kind
    payload :=
      if kind.benign && decide (payloadLen params index = 4) then
        some (assemble params.payloadWireOrder (s.answer after) (s.answer (after + 1))
          (s.answer (after + 2)) (s.answer (after + 3)))
      else none }

/-- The bytes the transaction sends: the frame, then fill (R143, R144, R151). -/
def commandBytes (k : Command) (r : Reply) : List Byte :=
  frameBytes params (encodeFrame k) ++ List.replicate (r.transfers - params.frameLen) params.fill

/-- The events of sending `sent` from the `start`-th transfer on (R142). -/
def State.exchange (s : State) (cs : Bool) (d : Divider) (start : Nat) (sent : List Byte) : List Event :=
  sent.mapIdx fun j b => ⟨cs, d, b, s.answer (start + j)⟩

/-- What `Initialize` is expected to do after the ten transfers of `Init.s1_high`. -/
structure InitExpected where
  /-- The kind returned, or none for success. -/
  failure : Option ErrorKind
  /-- `DS.addressing_mode` at the return. -/
  mode : AddrMode
  /-- The bytes sent. -/
  sent : List Byte
  deriving DecidableEq, Repr

/-- Step 4's loop (R175): `steps` sequencer steps have passed since the `Arm`, the next transfer is
the `pos`-th. The guard has expired at the test when its delay is over. Returns the failure, the
next transfer and what was sent. -/
def State.negotiate (s : State) (hcs : Bool) : Nat → Nat → Nat → Option ErrorKind × Nat × List Byte
  | 0, _, pos => (some .timeout, pos, [])
  | rounds + 1, steps, pos =>
    if s.nextDelay ≤ steps then (some .timeout, pos, [])
    else
      let p := s.reply pos params.idxAppPrefix
      let pSent := commandBytes (appPrefixCommand params) p
      if p.kind.benign then
        let q := s.reply (pos + p.transfers) params.idxAppInit
        let sent := pSent ++ commandBytes (appInitCommand params hcs) q
        let pos' := pos + p.transfers + q.transfers
        match q.kind with
        | .ok => (none, pos', sent)
        | .idle =>
          let later := s.negotiate hcs rounds (steps + 1 + p.steps + q.steps) pos'
          (later.1, later.2.1, sent ++ later.2.2)
        | k => (some k, pos', sent)
      else (some p.kind, pos + p.transfers, pSent)

/-- Step 6 (R177) at the `pos`-th transfer. -/
def State.expectBlocklen (s : State) (pos : Nat) (sent : List Byte) : InitExpected :=
  let r := s.reply pos params.idxSetBlocklen
  { failure := if r.kind = .ok then none else some r.kind.reported
    mode := .byte
    sent := sent ++ commandBytes (setBlocklenCommand params) r }

/-- Steps 4 to 6 (R175 to R177) for a card of the version step 3 found, at the `pos`-th transfer. -/
def State.expectNegotiation (s : State) (version : CardVersion) (mode : AddrMode) (pos : Nat)
    (sent : List Byte) : InitExpected :=
  match s.negotiate (version = .v2) (s.nextDelay + 1) 0 pos with
  | (some k, _, more) => ⟨some k, mode, sent ++ more⟩
  | (none, pos', more) =>
    match version with
    | .v1 => s.expectBlocklen pos' (sent ++ more)
    | .v2 =>
      let r := s.reply pos' params.idxReadOcr
      let sent' := sent ++ more ++ commandBytes (readOcrCommand params) r
      match r.payload with
      | none => ⟨some r.kind, mode, sent'⟩
      | some v =>
        match ocrMode params v with
        | .block => ⟨none, .block, sent'⟩
        | .byte => s.expectBlocklen (pos' + r.transfers) sent'

/-- `Initialize` from `s` (R181) after the ten transfers of `Init.s1_high`. -/
def State.expectInitialize (s : State) : InitExpected :=
  let r0 := s.reply 12 params.idxReset
  let sent0 := List.replicate 2 params.fill ++ commandBytes (resetCommand params) r0
  if r0.kind = .idle then
    let r1 := s.reply (12 + r0.transfers) params.idxIfCond
    let sent1 := sent0 ++ commandBytes (ifCondCommand params) r1
    let pos := 12 + r0.transfers + r1.transfers
    match r1.kind with
    | .idle =>
      if r1.payload = some params.ifCondPattern then
        s.expectNegotiation .v2 s.ds.addressingMode pos sent1
      else ⟨some .invalidVoltageRange, s.ds.addressingMode, sent1⟩
    | .illegalCommand => s.expectNegotiation .v1 .byte pos sent1
    | .noResponse => s.expectNegotiation .v1 .byte pos sent1
    | k => ⟨some k.reported, s.ds.addressingMode, sent1⟩
  else ⟨some r0.kind.reported, s.ds.addressingMode, sent0⟩

/-- What `ReadBlock` is expected to do. -/
structure ReadExpected where
  /-- The kind returned, or none for success. -/
  failure : Option ErrorKind
  /-- The bytes sent. -/
  sent : List Byte
  /-- On success, which transfer from the start brings `buffer[0]`. -/
  dataStart : Nat
  deriving DecidableEq, Repr

/-- The start-token wait (R204): `steps` sequencer steps have passed since the `Arm`, the next
transfer is the `pos`-th. Answers the transfer after the token, or none for `Timeout`, and the bytes
sent. -/
def State.waitToken (s : State) : Nat → Nat → Nat → Option Nat × List Byte
  | 0, _, _ => (none, [])
  | rounds + 1, steps, pos =>
    if s.nextDelay ≤ steps then (none, [])
    else if s.answer pos = params.startToken then (some (pos + 1), [params.fill])
    else
      let later := s.waitToken rounds (steps + 2) (pos + 1)
      (later.1, params.fill :: later.2)

/-- `ReadBlock` from `s` (R208). -/
def State.expectReadBlock (s : State) (blockNumber : Word) : ReadExpected :=
  if s.ds.initialized then
    let k := readSingleCommand params (translate s.ds.addressingMode blockNumber)
    let r := s.reply 0 params.idxReadSingle
    if r.kind = .ok then
      match s.waitToken (s.nextDelay + 1) 0 r.transfers with
      | (none, more) => ⟨some .timeout, commandBytes k r ++ more, 0⟩
      | (some start, more) =>
        ⟨none, commandBytes k r ++ more ++ List.replicate (512 + 2) params.fill, start⟩
    else ⟨some r.kind.reported, commandBytes k r, 0⟩
  else ⟨some .notInitialized, [], 0⟩

end Sys2Proof.Machine
end

