-- ==== Sys2Proof/Certificates/Slice0/Obligations.lean ====
section
/-! DEFINITION. The statements for the provers. Each docstring names the rule of spec/ it comes from. -/

open Sys2Proof Sys2Proof.Machine

/-! ## Encodings -/

/-- R100: the encoder's output, byte by byte in the order sent. -/
def Obligations.EncoderBuildsTheSixBytes : Prop :=
  ∀ k : Command, frameBytes params (encodeFrame k) =
    [0x40#8 ||| k.index.setWidth 8,
     k.arg.extractLsb' 24 8, k.arg.extractLsb' 16 8, k.arg.extractLsb' 8 8, k.arg.extractLsb' 0 8,
     (k.check.setWidth 8 <<< 1) ||| 1#8]

/-- R110: the first and last byte of every frame, and the operands read back from the six bytes, so
the encoder is injective. -/
def Obligations.EncoderIsInjective : Prop :=
  (∀ k : Command,
    frameByte (encodeFrame k) 0 = 0x40#8 ||| k.index.setWidth 8 ∧
    (frameByte (encodeFrame k) 0).getLsbD 7 = false ∧ (frameByte (encodeFrame k) 0).getLsbD 6 = true ∧
    (frameByte (encodeFrame k) 5).getLsbD 0 = true ∧
    (frameByte (encodeFrame k) 0).extractLsb' 0 6 = k.index ∧
    frameByte (encodeFrame k) 1 ++ frameByte (encodeFrame k) 2 ++ frameByte (encodeFrame k) 3 ++
      frameByte (encodeFrame k) 4 = k.arg ∧
    (frameByte (encodeFrame k) 5).extractLsb' 1 7 = k.check) ∧
  ∀ k k' : Command, encodeFrame k = encodeFrame k' → k = k'

/-- A word is an instruction exactly when it has the framing bits of R71; the decoder names the bit
that is wrong. -/
def Obligations.DecoderTakesExactlyTheFrames : Prop :=
  (∀ w : Frame, (∃ i, decodeFrame w = .ok i) ↔ w &&& 0xC00000000001#48 = 0x400000000001#48) ∧
  (∀ w : Frame, w.getLsbD 47 = true → decodeFrame w = .error .startBit) ∧
  (∀ w : Frame, w.getLsbD 47 = false → w.getLsbD 46 = false → decodeFrame w = .error .transmissionBit) ∧
  (∀ w : Frame, w.getLsbD 47 = false → w.getLsbD 46 = true → w.getLsbD 0 = false →
    decodeFrame w = .error .stopBit)

/-- Decode and encode agree: every well-formed instruction is read back from its word, whatever its
operands. -/
def Obligations.DecodeReadsBackEveryInstruction : Prop :=
  ∀ i : Instr, i.wf = true → decode (encode i) = .ok i

/-- Each frame word has one meaning: what the decoder reads from it is well formed and encodes to it. -/
def Obligations.EncodeGivesBackEveryFrame : Prop :=
  ∀ (w : Frame) (i : Instr), decodeFrame w = .ok i → encode i = .frame w ∧ i.wf = true

/-- The words of spec/opcode_table.json decode to their rows (R79, R84). The select codes of the host
operations are the spec's decision D13; that such a word stands in one byte and gives `ReadBlock` the
block number 0 is the model's choice (log entry 24). -/
def Obligations.TableWordsDecodeToTheirRows : Prop :=
  decodeTableWord 48 0x400000000095 = some .cmd0 ∧
  decodeTableWord 48 0x48000001AA87 = some .cmd8 ∧
  decodeTableWord 48 0x500000020001 = some .cmd16 ∧
  decodeTableWord 48 0x5100000A0001 = some (.cmd17 0xA00#32) ∧
  decodeTableWord 48 0x770000000001 = some .cmd55 ∧
  decodeTableWord 48 0x694000000001 = some (.acmd41 true) ∧
  decodeTableWord 48 0x690000000001 = some (.acmd41 false) ∧
  decodeTableWord 48 0x7A0000000001 = some .cmd58 ∧
  decodeTableWord 48 0x580000000001 = some (.cmdGeneric 24#6 0#32 0#7) ∧
  decodeTableWord 8 0 = some .opInitialize ∧ decodeTableWord 8 1 = some (.opReadBlock 0#32) ∧
  decodeTableWord 8 2 = some .opIsReady ∧ decodeTableWord 8 3 = some .opShutdown

/-! ## The response decoder and the operand computations -/

/-- R121: the highest set bit of the status byte decides its kind. -/
def Obligations.HighestStatusBitDecides : Prop :=
  decodeStatus 0#8 = .ok ∧
  ∀ (s : Byte) (n : Fin 8), s.getLsbD n = true →
    (∀ m : Fin 8, n < m → s.getLsbD m = false) →
    decodeStatus s =
      (match n with
        | 0 => ErrorKind.idle
        | 1 => .eraseReset
        | 2 => .illegalCommand
        | 3 => .commandCrc
        | 4 => .eraseSequence
        | 5 => .addressError
        | 6 => .parameter
        | 7 => .noResponse)

/-- R61, R57: the address of the single-block-read command. The reduction modulo 2^32 is the spec's own
decision D20 (log entry 10); under byte addressing the address is always sector-aligned. -/
def Obligations.AddressTranslation : Prop :=
  ∀ n : Word, translate .block n = n ∧ (translate .byte n).toNat = n.toNat * 512 % 2 ^ 32 ∧
    (translate .byte n).toNat % 512 = 0

/-- R55: the payload value of four received bytes, in both wire orders. That the default is the first
of them is the spec's decision D2, spec/90_conflicts.md C1 (log entry 11). -/
def Obligations.PayloadAssembly : Prop :=
  ∀ r0 r1 r2 r3 : Byte,
    (assemble .msbFirst r0 r1 r2 r3).toNat =
      r0.toNat * 2 ^ 24 + r1.toNat * 2 ^ 16 + r2.toNat * 2 ^ 8 + r3.toNat ∧
    (assemble .lsbFirst r0 r1 r2 r3).toNat =
      r0.toNat + r1.toNat * 2 ^ 8 + r2.toNat * 2 ^ 16 + r3.toNat * 2 ^ 24

/-! ## The primitives -/

/-- R140, R141: a `Select` asserts the line and keeps the level it found, which the `Restore` of that
level gives back, whatever ran between; nested twice as in `ReadBlock`. -/
def Obligations.RestoreGivesBackTheSelectedLevel : Prop :=
  ∀ s : State,
    s.selectOuter.bt.csAsserted = true ∧ s.selectInner.bt.csAsserted = true ∧
    s.selectOuter.trace = s.trace ∧ s.selectInner.trace = s.trace ∧
    (∀ t : State, t.w.priorOuter = s.selectOuter.w.priorOuter →
      t.restoreOuter.bt.csAsserted = s.bt.csAsserted) ∧
    (∀ t : State, t.w.priorInner = s.selectInner.w.priorInner →
      t.restoreInner.bt.csAsserted = s.bt.csAsserted) ∧
    s.selectOuter.selectInner.restoreInner.bt.csAsserted = true ∧
    s.selectOuter.selectInner.restoreInner.restoreOuter.bt.csAsserted = s.bt.csAsserted

/-- R142: one transfer records one event and changes no state of the block. That the byte received is
the next one of the model's tape, and that the card's later answers move up by one, is the model's
choice (log entry 1). -/
def Obligations.TransferRecordsOneEvent : Prop :=
  ∀ (s : State) (b : Byte),
    (s.xfer b).trace = s.trace ++ [⟨s.bt.csAsserted, s.bt.divider, b, s.answer 0⟩] ∧
    (s.xfer b).ds = s.ds ∧ (s.xfer b).tg = s.tg ∧ (s.xfer b).bt = s.bt ∧ (s.xfer b).seq = s.seq ∧
    (s.xfer b).cmdSeq = s.cmdSeq ∧ (s.xfer b).w = s.w ∧ (s.xfer b).host = s.host ∧
    (s.xfer b).buffer = s.buffer ∧ ∀ n, (s.xfer b).answer n = s.answer (n + 1)

/-- R152, R153: what `Arm` and `Disarm` do to the guard, and that they do nothing else to the block;
an `Arm` starts the countdown anew, whatever it was and whatever the deadline; after a `Disarm` the
handler does not run. That the countdown is a number of steps standing in State, set to the next delay of
the model's tape, is the model's choice (log entry 2). -/
def Obligations.ArmAndDisarmTheGuard : Prop :=
  ∀ (s : State) (d : Nat),
    (s.arm d).tg = ⟨false, true⟩ ∧ (s.arm d).env.countdown = s.nextDelay ∧
    { s.arm d with tg := s.tg, env := s.env } = s ∧
    s.disarm.tg = ⟨s.tg.expired, false⟩ ∧ s.disarm.handlerDue = false ∧
    { s.disarm with tg := s.tg } = s

/-- R156: the handler takes its step only while the guard is armed; it sets the flag, disarms, and
touches nothing else. While the guard is armed its step may be the very next one, wherever the
sequencer stands (the delay may have run out); while it is not armed every step is the sequencer's. -/
def Obligations.HandlerStepsOnlyWhileArmed : Prop :=
  ∀ (c : Params) (s : State),
    (s.handlerDue = true → s.tg.armed = true ∧ busStep c s = { s with tg := ⟨true, false⟩ }) ∧
    (s.tg.armed = true → busStep c { s with env.countdown := 0 } =
      { s with tg := ⟨true, false⟩, env.countdown := 0 }) ∧
    (s.tg.armed = false → busStep c s = sequencerStep c s)

/-- R24: only the handler raises the flag and only `Arm` clears it. `s.computed c` is `s` with the pure
computations that are part of the next step made (R9): it stands at the line whose step is next. -/
def Obligations.FlagIsSetByTheHandlerAndClearedByArm : Prop :=
  ∀ (c : Params) (s : State),
    (s.tg.expired = false → (busStep c s).tg.expired = true →
      s.tg.armed = true ∧ busStep c s = s.expiryHandler) ∧
    (s.tg.expired = true → (busStep c s).tg.expired = false →
      s.seq = .initS4Arm ∨ (s.computed c).seq = .readArm)

/-- R21, R22, R23: which steps write `DriverState`, and what they write: `DS.initialized` false at entry
and true at completion, `DS.addressing_mode` byte in step 3 and what the payload's bit says in step 5
(R174, R176). -/
def Obligations.OnlyInitializeWritesDriverState : Prop :=
  ∀ (c : Params) (s : State),
    ((busStep c s).ds.initialized ≠ s.ds.initialized →
      (s.seq = .initEntryClear ∧ (busStep c s).ds.initialized = false) ∨
      (s.seq = .initDone ∧ (busStep c s).ds.initialized = true)) ∧
    ((busStep c s).ds.addressingMode ≠ s.ds.addressingMode →
      (s.seq = .initS3Byte ∧ (busStep c s).ds.addressingMode = .byte) ∨
      ((s.computed c).seq = .initS5Mode ∧
        (busStep c s).ds.addressingMode = if s.w.payload.getLsbD c.ccsBit then .block else .byte))

/-- R28, R29: which steps write the divider and the enable bit, and what they write. -/
def Obligations.DividerAndEnableWriters : Prop :=
  ∀ (c : Params) (s : State),
    ((busStep c s).bt.divider ≠ s.bt.divider →
      (s.seq = .initEntryDivider ∧ (busStep c s).bt.divider = .slow) ∨
      ((s.computed c).seq = .initS7Speed ∧ (busStep c s).bt.divider = .fast)) ∧
    ((busStep c s).bt.enabled ≠ s.bt.enabled →
      (s.seq = .initEntryEnable ∧ (busStep c s).bt.enabled = true) ∨
      (s.seq = .shutDisable ∧ (busStep c s).bt.enabled = false))

/-- R27: a step of the block moves the chip-select line by a `Select`, which asserts it, or by a
`Restore`, which puts it to the saved level; nothing else moves it. -/
def Obligations.OnlySelectAndRestoreMoveTheLine : Prop :=
  ∀ (c : Params) (s : State), (busStep c s).bt.csAsserted ≠ s.bt.csAsserted →
    let u := s.computed c
    ((u.seq = .initS1Select ∨ u.seq = .readSelect ∨ u.seq.isCall = true ∧ u.cmdSeq = .select) ∧
      (busStep c s).bt.csAsserted = true) ∨
    ((u.seq = .initS1Restore ∨ u.seq = .readRelease ∨ u.seq = .readAbortRestore) ∧
      (busStep c s).bt.csAsserted = s.w.priorOuter) ∨
    (u.seq.isCall = true ∧ u.cmdSeq = .restore ∧ (busStep c s).bt.csAsserted = s.w.priorInner)

/-- R52, R205: the buffer is written in the data phase only, one received byte to the position
`byte_count`; every other position reads as before. -/
def Obligations.BufferIsWrittenInTheDataPhaseOnly : Prop :=
  ∀ (c : Params) (s : State),
    ((busStep c s).buffer ≠ s.buffer → s.seq = .readData ∧ s.w.byteCount.toNat < 512) ∧
    (s.seq = .readData → s.handlerDue = false → s.w.byteCount.toNat < 512 →
      ∀ a, (busStep c s).buffer.read a =
        if a = s.w.byteCount.toNat then some (s.answer 0) else s.buffer.read a)

/-- R78, R143, R144, R151: a step makes at most one transfer; it sends the next byte of the frame
inside `Cmd.send` and the fill byte anywhere else. -/
def Obligations.StepsSendTheFrameOrFill : Prop :=
  ∀ (c : Params) (s : State), (busStep c s).trace = s.trace ∨
    let u := s.computed c
    ∃ b : Byte,
      (busStep c s).trace = s.trace ++ [⟨s.bt.csAsserted, s.bt.divider, b, s.answer 0⟩] ∧
      ((u.seq.isCall = true ∧ u.cmdSeq = .send ∧ b = frameByte u.w.frame s.w.byteCount.toNat) ∨
        (b = c.fill ∧ ¬ (u.seq.isCall = true ∧ u.cmdSeq = .send)))

/-! ## The commands the sequencer sends -/

/-- R59, R79, R81, R100: at every position the sequencer calls `Command` with one of the seven commands
of the table, each with its own argument and check value, so it has no way to send another; the
encoder takes every index, and the generic row returns the frame to its caller, transfers nothing and
writes nothing of the block (R100). Where the model notes what was returned, `env.encoded`, is its choice
(log entry 4). -/
def Obligations.OnlyTheSevenCommandsAreSent : Prop :=
  (∀ (s : State) (k : Command), s.callOf params = some k →
    k = ⟨0#6, 0#32, 0x4A#7⟩ ∨ k = ⟨8#6, 0x1AA#32, 0x43#7⟩ ∨ k = ⟨16#6, 512#32, 0#7⟩ ∨
    k = ⟨17#6, s.w.address, 0#7⟩ ∨ k = ⟨55#6, 0#32, 0#7⟩ ∨
    k = ⟨41#6, 0x40000000#32, 0#7⟩ ∨ k = ⟨41#6, 0#32, 0#7⟩ ∨ k = ⟨58#6, 0#32, 0#7⟩) ∧
  (∀ s : State, s.seq = .initS4Init →
    s.callOf params = some ⟨41#6, if s.w.cardVersion = .v2 then 0x40000000#32 else 0#32, 0#7⟩) ∧
  (∀ (index : BitVec 6) (arg : Word) (check : BitVec 7) (s : State), s.seq.resting = true →
    ∃ t : State, exec (.cmdGeneric index arg check) s = .next t ∧
      t.env.encoded = some (encodeFrame ⟨index, arg, check⟩) ∧ t.seq = .idle ∧ t.trace = s.trace ∧
      t.w = s.w ∧ t.bt = s.bt ∧ t.ds = s.ds ∧ t.tg = s.tg ∧ t.host = s.host ∧ t.buffer = s.buffer ∧
      { t.env with encoded := s.env.encoded } = s.env)

/-- R149, R101: inside a transaction the operands in their registers are those of the command the
position sends, and the frame in flight is their encoding; every agent's step keeps that. In which step
they come to stand there is the model's choice (log entry 33). -/
def Obligations.FrameInFlightFitsTheCaller : Prop :=
  ∀ s : State, s.FrameFitsTheCaller → (busStep params s).FrameFitsTheCaller

/-- R176, R177, R182: the addressing query is sent to a version-2 card only and the fixed block length
under byte addressing only; every agent's step keeps that. -/
def Obligations.CommandsFitTheCardAtEveryStep : Prop :=
  ∀ (c : Params) (s : State), s.CommandsFitTheCard → (busStep c s).CommandsFitTheCard

/-- R80: the command with index 41 is sent at two positions only, in `Initialize` and in the pair ACMD41
called on its own; each is entered only from the check that the prefix's status was benign, and that
check only from the return of the prefix's transaction. -/
def Obligations.InitializationCommandFollowsThePrefix : Prop :=
  (∀ (s : State) (k : Command), s.callOf params = some k → k.index = 41#6 →
    s.seq = .initS4Init ∨ ∃ hcs, s.seq = .frameInit hcs) ∧
  ∀ (c : Params) (s : State),
    ((busStep c s).seq = .initS4Init → s.seq ≠ .initS4Init →
      s.seq = .initS4PrefixCheck ∧ s.w.kind.benign = true) ∧
    ((busStep c s).seq = .initS4PrefixCheck → s.seq ≠ .initS4PrefixCheck →
      s.seq = .initS4Prefix ∧ (s.computed c).cmdSeq = .callReturn) ∧
    ∀ hcs,
      ((busStep c s).seq = .frameInit hcs → s.seq ≠ .frameInit hcs →
        s.seq = .framePrefixCheck hcs ∧ s.w.kind.benign = true) ∧
      ((busStep c s).seq = .framePrefixCheck hcs → s.seq ≠ .framePrefixCheck hcs →
        s.seq = .framePrefix hcs ∧ (s.computed c).cmdSeq = .callReturn)

/-! ## The meanings of the card commands -/

/-- R149 with R126, R123, R150, R151: for every command of the table but the pair ACMD41, the
transaction runs to its return from every resting state with the transport enabled: what it sends and
receives, the kind and payload it returns, the line restored, and everything else unchanged. That a
command runs on its own is the model's choice (log entry 4). -/
def Obligations.CommandTransactionCompletes : Prop :=
  ∀ (i : Instr) (k : Command) (s : State), sentCommand i = some k →
    s.seq.resting = true → s.bt.enabled = true → s.GuardDiscipline →
    ∃ t : State, exec i s = .next t ∧ t.seq = .idle ∧
      t.trace = s.trace ++
        s.exchange true s.bt.divider 0 (commandBytes k (s.reply 0 k.index)) ∧
      t.w.kind = (s.reply 0 k.index).kind ∧
      t.w.payloadHeld = (s.reply 0 k.index).payload.isSome ∧
      (∀ v, (s.reply 0 k.index).payload = some v → t.w.payload = v) ∧
      t.bt = s.bt ∧ t.ds = s.ds ∧ t.tg = s.tg ∧ t.host = s.host ∧ t.buffer = s.buffer

/-- R80, R108 (ACMD41): the pair of transactions CMD55 and index 41 completes; the second is sent
exactly when the first's status is benign, and the kind returned is that of the last one sent. That the
pair runs on its own is the model's choice (log entry 4). -/
def Obligations.InitializationPairCompletes : Prop :=
  ∀ (hcs : Bool) (s : State), s.seq.resting = true → s.bt.enabled = true → s.GuardDiscipline →
    ∃ t : State, exec (.acmd41 hcs) s = .next t ∧ t.seq = .idle ∧
      (let p := s.reply 0 55#6
       let q := s.reply p.transfers 41#6
       let argument : Word := if hcs then 0x40000000#32 else 0#32
       if p.kind.benign then
         t.w.kind = q.kind ∧ t.trace = s.trace ++ s.exchange true s.bt.divider 0
           (commandBytes ⟨55#6, 0#32, 0#7⟩ p ++ commandBytes ⟨41#6, argument, 0#7⟩ q)
       else
         t.w.kind = p.kind ∧
         t.trace = s.trace ++ s.exchange true s.bt.divider 0 (commandBytes ⟨55#6, 0#32, 0#7⟩ p)) ∧
      t.w.payloadHeld = false ∧
      t.bt = s.bt ∧ t.ds = s.ds ∧ t.tg = s.tg ∧ t.host = s.host ∧ t.buffer = s.buffer

/-- R150: a transaction called with the line asserted leaves it asserted, one called with it released
has it asserted for its transfers only and leaves it released. -/
def Obligations.TransactionsAreSelectedAndRestored : Prop :=
  ∀ (i : Instr) (s t : State), (∃ k, sentCommand i = some k) ∨ (∃ hcs, i = .acmd41 hcs) →
    s.GuardDiscipline → exec i s = .next t →
    t.bt.csAsserted = s.bt.csAsserted ∧
    ∃ l, t.trace = s.trace ++ l ∧ l ≠ [] ∧ ∀ e ∈ l, e.cs = true

/-- R159 for a command called on its own, and one transaction at a time (R148): when a frame row is
refused, and by which name. The generic row uses no transport, and is refused only while an operation
is in progress. That a frame row runs on its own is the model's choice (log entry 4). -/
def Obligations.CommandsAreRefusedWhenBusyOrDisabled : Prop :=
  (∀ (i : Instr) (k : Command) (s : State), i.command = some k → s.seq.resting = false →
    exec i s = .refused .operationInProgress) ∧
  ∀ (i : Instr) (s : State), (∃ k, sentCommand i = some k) ∨ (∃ hcs, i = .acmd41 hcs) →
    s.seq.resting = true → s.bt.enabled = false → exec i s = .refused .transportDisabled

/-! ## Initialize -/

/-- R170 to R179, R181: `Initialize` from every idle state with the line released completes, and does
what its pseudocode says over the card's answers and the expiry moment: the bytes on the bus, the
result, `DriverState`, the transport, the guard; the buffer and the host's request are untouched. -/
def Obligations.InitializeFollowsItsPseudocode : Prop :=
  ∀ s : State, s.seq = .idle → s.bt.csAsserted = false → s.GuardDiscipline →
    ∃ t : State, exec .opInitialize s = .next t ∧ t.seq = .idle ∧
      (let e := s.expectInitialize
       t.host.result = (match e.failure with
         | none => .ok
         | some k => .err k) ∧
       t.ds = ⟨e.failure.isNone, e.mode⟩ ∧
       t.bt = ⟨false, if e.failure.isNone then .fast else .slow, true⟩ ∧
       t.trace = s.trace ++ s.exchange false .slow 0 (List.replicate 10 0xFF#8) ++
         s.exchange true .slow 10 e.sent) ∧
      t.tg.armed = false ∧ t.buffer = s.buffer ∧ t.host.request = s.host.request ∧
      t.host.blockNumber = s.host.blockNumber

/-- R178: step 7 switches to the fast divider and goes to completion; `DS.initialized` becomes true there
and nowhere else, and `Ok` is returned; on a successful return the divider is fast, the line released,
the guard disarmed and the driver initialized. -/
def Obligations.SpeedUpCompletesInitialize : Prop :=
  (∀ (c : Params) (s : State), s.seq = .initS7Speed → s.tg.armed = false →
    (busStep c s).bt.divider = .fast ∧ (busStep c s).seq = .initDone ∧ (busStep c s).trace = s.trace) ∧
  (∀ (c : Params) (s : State), s.seq = .initDone → s.tg.armed = false →
    (busStep c s).ds.initialized = true ∧ (busStep c s).seq = .initReturn ∧
    (busStep c s).ds.addressingMode = s.ds.addressingMode) ∧
  (∀ (c : Params) (s : State), s.seq = .initReturn → s.tg.armed = false →
    (busStep c s).host.result = .ok ∧ (busStep c s).seq = .idle ∧ (busStep c s).ds = s.ds) ∧
  (∀ (c : Params) (s : State), s.ds.initialized = false → (busStep c s).ds.initialized = true →
    s.seq = .initDone) ∧
  (∀ s t : State, s.GuardDiscipline → exec .opInitialize s = .next t → t.host.result = .ok →
    t.bt.divider = .fast ∧ t.bt.csAsserted = false ∧ t.tg.armed = false ∧ t.ds.initialized = true)

/-- R170, R179, R252: `Initialize` is all or nothing: success with the driver initialized, or a kind
with the driver uninitialized, the slow divider and the transport enabled; either way the line is
released and the guard disarmed. -/
def Obligations.InitializeIsAllOrNothing : Prop :=
  ∀ s t : State, s.GuardDiscipline → exec .opInitialize s = .next t →
    ((t.host.result = .ok ∧ t.ds.initialized = true) ∨
      ∃ k, t.host.result = .err k ∧ t.ds.initialized = false ∧ t.bt.divider = .slow) ∧
    t.bt.enabled = true ∧ t.bt.csAsserted = false ∧ t.tg.armed = false ∧ t.buffer = s.buffer

/-- R173: a card whose answer to the reset command is not `Idle` ends `Initialize` there and leaves the
driver uninitialized. Reporting `Generic` for `Ok` is the spec's own decision D10 (log entry 12); every
other kind is reported as itself. -/
def Obligations.ResetCommandMustAnswerIdle : Prop :=
  ∀ s : State, s.seq = .idle → s.bt.csAsserted = false → s.GuardDiscipline →
    (s.reply 12 0#6).kind ≠ .idle →
    ∃ t : State, exec .opInitialize s = .next t ∧
      t.host.result = .err (if (s.reply 12 0#6).kind = .ok then .generic else (s.reply 12 0#6).kind) ∧
      t.ds.initialized = false ∧
      t.trace.length = s.trace.length + 12 + (s.reply 12 0#6).transfers

/-- R181, R182: on a version-1 card (R174) that answers each step as required, in the first round of the
negotiation, `Initialize` succeeds with byte addressing, sends the fixed block length and never the
addressing query: the exact bytes on the bus (R172 to R175, R177). The twelve fills are the spec's
decision D17 (log entry 18), the prefix accepted when benign its decision D14 (log entry 16). -/
def Obligations.VersionOneCardInitializes : Prop :=
  ∀ s : State, s.seq = .idle → s.bt.csAsserted = false → s.GuardDiscipline → 0 < s.nextDelay →
    let r0 := s.reply 12 0#6
    let r8 := s.reply (12 + r0.transfers) 8#6
    let r55 := s.reply (12 + r0.transfers + r8.transfers) 55#6
    let r41 := s.reply (12 + r0.transfers + r8.transfers + r55.transfers) 41#6
    let r16 := s.reply (12 + r0.transfers + r8.transfers + r55.transfers + r41.transfers) 16#6
    r0.kind = .idle → r8.kind = .illegalCommand ∨ r8.kind = .noResponse → r55.kind.benign = true →
    r41.kind = .ok → r16.kind = .ok →
    ∃ t : State, exec .opInitialize s = .next t ∧ t.host.result = .ok ∧
      t.ds = ⟨true, .byte⟩ ∧ t.bt = ⟨false, .fast, true⟩ ∧
      t.trace.map Event.sent = s.trace.map Event.sent ++ List.replicate 12 0xFF#8 ++
        commandBytes ⟨0#6, 0#32, 0x4A#7⟩ r0 ++ commandBytes ⟨8#6, 0x1AA#32, 0x43#7⟩ r8 ++
        commandBytes ⟨55#6, 0#32, 0#7⟩ r55 ++ commandBytes ⟨41#6, 0#32, 0#7⟩ r41 ++
        commandBytes ⟨16#6, 512#32, 0#7⟩ r16

/-- R181, R182: on a version-2 block-addressed card that is ready in the first round of the negotiation,
`Initialize` succeeds with block addressing and the fast divider (R178) and never sends the fixed block
length: the exact bytes on the bus (R172 to R176). The twelve fills are the spec's decision D17 (log
entry 18), the benign statuses accepted of CMD55 and CMD58 its decisions D14 and D15 (log entry 16). -/
def Obligations.VersionTwoBlockCardInitializes : Prop :=
  ∀ (s : State) (ocr : Word), s.seq = .idle → s.bt.csAsserted = false → s.GuardDiscipline →
    0 < s.nextDelay →
    let r0 := s.reply 12 0#6
    let r8 := s.reply (12 + r0.transfers) 8#6
    let r55 := s.reply (12 + r0.transfers + r8.transfers) 55#6
    let r41 := s.reply (12 + r0.transfers + r8.transfers + r55.transfers) 41#6
    let r58 := s.reply (12 + r0.transfers + r8.transfers + r55.transfers + r41.transfers) 58#6
    r0.kind = .idle → r8.kind = .idle → r8.payload = some 0x1AA#32 → r55.kind.benign = true →
    r41.kind = .ok → r58.payload = some ocr → ocr.getLsbD 30 = true →
    ∃ t : State, exec .opInitialize s = .next t ∧ t.host.result = .ok ∧
      t.ds = ⟨true, .block⟩ ∧ t.bt = ⟨false, .fast, true⟩ ∧
      t.trace.map Event.sent = s.trace.map Event.sent ++ List.replicate 12 0xFF#8 ++
        commandBytes ⟨0#6, 0#32, 0x4A#7⟩ r0 ++ commandBytes ⟨8#6, 0x1AA#32, 0x43#7⟩ r8 ++
        commandBytes ⟨55#6, 0#32, 0#7⟩ r55 ++ commandBytes ⟨41#6, 0x40000000#32, 0#7⟩ r41 ++
        commandBytes ⟨58#6, 0#32, 0#7⟩ r58

/-! ## ReadBlock -/

/-- R201: with the transport enabled, `ReadBlock` before a successful `Initialize` answers
`NotInitialized`: no transfer, the line, the guard and the buffer untouched. (With the transport
disabled it is refused, R159: RefusalsOfTheHostOperations.) -/
def Obligations.ReadBlockBeforeInitialize : Prop :=
  ∀ (n : Word) (s : State), s.seq = .idle → s.bt.enabled = true → s.ds.initialized = false →
    s.GuardDiscipline →
    ∃ t : State, exec (.opReadBlock n) s = .next t ∧ t.host.result = .err .notInitialized ∧
      t.seq = .idle ∧ t.ds = s.ds ∧ t.tg = s.tg ∧ t.bt = s.bt ∧ t.buffer = s.buffer ∧
      t.trace = s.trace ∧ t.host.request = s.host.request

/-- R208 with R202 to R207, R209: `ReadBlock` from every idle state with the transport enabled
completes, and does what its pseudocode says over the card's answers and the expiry moment. On success
the 512 positions of the buffer hold the 512 bytes received after the token; on failure every position
reads as before. -/
def Obligations.ReadBlockFollowsItsPseudocode : Prop :=
  ∀ (n : Word) (s : State), s.seq = .idle → s.bt.enabled = true → s.GuardDiscipline →
    ∃ t : State, exec (.opReadBlock n) s = .next t ∧ t.seq = .idle ∧
      (let e := s.expectReadBlock n
       t.host.result = (match e.failure with
         | none => .ok
         | some k => .err k) ∧
       t.trace = s.trace ++ s.exchange true s.bt.divider 0 e.sent ∧
       (e.failure = none → ∀ a, t.buffer.read a =
         if a < 512 then some (s.answer (e.dataStart + a)) else s.buffer.read a) ∧
       (e.failure ≠ none → t.buffer = s.buffer)) ∧
      t.ds = s.ds ∧ t.bt = s.bt ∧ t.tg.armed = false ∧ t.host.request = s.host.request

/-- R204, R205, R206: when the command is answered `Ok` and the token is the `m`-th byte of the wait
and its test comes before the expiry, the read succeeds with the next 512 bytes in the buffer and two
more discarded. -/
def Obligations.ReadBlockDeliversTheSector : Prop :=
  ∀ (n : Word) (s : State) (m : Nat), s.seq = .idle → s.ds.initialized = true →
    s.bt.enabled = true → s.GuardDiscipline →
    let r := s.reply 0 17#6
    r.kind = .ok → (∀ j, j < m → s.answer (r.transfers + j) ≠ 0xFE#8) →
    s.answer (r.transfers + m) = 0xFE#8 → 2 * m < s.nextDelay →
    ∃ t : State, exec (.opReadBlock n) s = .next t ∧ t.host.result = .ok ∧
      (∀ a, a < 512 → t.buffer.read a = some (s.answer (r.transfers + m + 1 + a))) ∧
      (∀ a, 512 ≤ a → t.buffer.read a = s.buffer.read a) ∧
      t.trace.length = s.trace.length + r.transfers + m + 1 + 514 ∧
      t.ds = s.ds ∧ t.bt = s.bt

/-- R204: no start token before the expiry is seen gives `Timeout`, and the buffer is never written. -/
def Obligations.ReadBlockTimesOutWithoutAToken : Prop :=
  ∀ (n : Word) (s : State), s.seq = .idle → s.ds.initialized = true →
    s.bt.enabled = true → s.GuardDiscipline →
    let r := s.reply 0 17#6
    r.kind = .ok → (∀ j, 2 * j < s.nextDelay → s.answer (r.transfers + j) ≠ 0xFE#8) →
    ∃ t : State, exec (.opReadBlock n) s = .next t ∧ t.host.result = .err .timeout ∧
      t.buffer = s.buffer ∧ t.bt = s.bt ∧ t.ds = s.ds ∧ t.tg.armed = false

/-- R207: chip-select is asserted for every transfer of `ReadBlock` and is at its entry level on every
exit. -/
def Obligations.ReadBlockHoldsAndRestoresTheLine : Prop :=
  ∀ (n : Word) (s t : State), s.GuardDiscipline → exec (.opReadBlock n) s = .next t →
    t.bt.csAsserted = s.bt.csAsserted ∧
    ∃ l, t.trace = s.trace ++ l ∧ ∀ e ∈ l, e.cs = true

/-- R209, R252: on every error the buffer is as the host supplied it, and `DriverState` and the divider
are unchanged whatever is returned. -/
def Obligations.ReadBlockErrorKeepsTheBuffer : Prop :=
  ∀ (n : Word) (s t : State), s.GuardDiscipline → exec (.opReadBlock n) s = .next t →
    (∀ k, t.host.result = .err k → t.buffer = s.buffer) ∧ t.ds = s.ds ∧ t.bt = s.bt ∧
    t.tg.armed = false

/-- R205: in the data phase one step stores the byte received, whatever it is, at the next position and
goes on to the following one, 512 in all; nothing can stop it. That `byte_count` is 0 after the 512th is the
model's choice (log entry 31). -/
def Obligations.DataBytesAreStoredAsReceived : Prop :=
  ∀ s : State, s.seq = .readData → s.tg.armed = false → s.w.byteCount.toNat < 512 →
    (∀ a, (busStep params s).buffer.read a =
      if a = s.w.byteCount.toNat then some (s.answer 0) else s.buffer.read a) ∧
    (busStep params s).trace =
      s.trace ++ [⟨s.bt.csAsserted, s.bt.divider, 0xFF#8, s.answer 0⟩] ∧
    (s.w.byteCount.toNat < 511 → (busStep params s).seq = .readData ∧
      (busStep params s).w.byteCount.toNat = s.w.byteCount.toNat + 1) ∧
    (s.w.byteCount.toNat = 511 → (busStep params s).seq = .readTrailer ∧
      (busStep params s).w.byteCount = 0#10)

/-- R206: the two trailing check bytes are taken and discarded. That `byte_count` is 0 when they begin is the
model's choice (log entry 31). -/
def Obligations.TrailerIsDiscarded : Prop :=
  ∀ s : State, s.seq = .readTrailer → s.tg.armed = false → s.w.byteCount = 0#10 →
    (busStep params (busStep params s)).seq = .readRelease ∧
    (busStep params (busStep params s)).buffer = s.buffer ∧
    (busStep params (busStep params s)).trace = s.trace ++
      [⟨s.bt.csAsserted, s.bt.divider, 0xFF#8, s.answer 0⟩,
       ⟨s.bt.csAsserted, s.bt.divider, 0xFF#8, s.answer 1⟩]

/-! ## IsReady and Shutdown -/

/-- R220: `IsReady` completes from every idle state with the transport enabled; it sends the
operating-conditions read, answers bit 31 of the payload, false after every non-benign status, and
leaves everything else as it was, the line included. The place and polarity of the bit are the spec's
decision D9 (log entry 13). -/
def Obligations.IsReadyReportsTheBusyBit : Prop :=
  ∀ s : State, s.seq = .idle → s.bt.enabled = true → s.GuardDiscipline →
    ∃ t : State, exec .opIsReady s = .next t ∧ t.seq = .idle ∧
      (let r := s.reply 0 58#6
       t.host.result = .ready (match r.payload with
         | none => false
         | some v => v.getLsbD 31) ∧
       (r.payload = none ↔ r.kind.benign = false) ∧
       t.trace = s.trace ++
         s.exchange true s.bt.divider 0 (commandBytes ⟨58#6, 0#32, 0#7⟩ r)) ∧
      t.bt = s.bt ∧ t.ds = s.ds ∧ t.tg = s.tg ∧ t.buffer = s.buffer ∧
      t.host.request = s.host.request ∧ t.host.blockNumber = s.host.blockNumber

/-- R221, R222: every communication failure is "not ready" with its kind dropped, and the line is left
at the level it had. -/
def Obligations.IsReadyFlattensFailuresAndKeepsTheLine : Prop :=
  ∀ s t : State, s.GuardDiscipline → exec .opIsReady s = .next t →
    ((s.reply 0 58#6).kind.benign = false → t.host.result = .ready false) ∧
    t.bt.csAsserted = s.bt.csAsserted

/-- R223: `IsReady` does not consult `DriverState`: with another `DriverState` the run is the same. -/
def Obligations.IsReadyIgnoresDriverState : Prop :=
  ∀ (s t : State) (ds : DriverState), exec .opIsReady s = .next t →
    exec .opIsReady { s with ds := ds } = .next { t with ds := ds }

/-- R224: `Shutdown` disables the transport and changes nothing else; no byte is transferred. -/
def Obligations.ShutdownDisablesTheTransport : Prop :=
  ∀ s : State, s.seq = .idle → s.GuardDiscipline →
    ∃ t : State, exec .opShutdown s = .next t ∧ t.seq = .idle ∧
      t.bt = ⟨s.bt.csAsserted, s.bt.divider, false⟩ ∧ t.ds = s.ds ∧ t.tg = s.tg ∧
      t.buffer = s.buffer ∧ t.trace = s.trace ∧ t.host.request = s.host.request ∧
      t.host.blockNumber = s.host.blockNumber ∧ t.host.result = .none

/-- R242, R210: the kinds a failed operation can return: never a benign kind, `NotInitialized` from
`ReadBlock` only, `InvalidVoltageRange` from `Initialize` only. -/
def Obligations.KindsReturnedToTheHost : Prop :=
  (∀ (s t : State) (k : ErrorKind), s.GuardDiscipline → exec .opInitialize s = .next t →
    t.host.result = .err k → k.benign = false ∧ k ≠ .notInitialized) ∧
  (∀ (n : Word) (s t : State), s.GuardDiscipline → exec (.opReadBlock n) s = .next t →
    t.host.result = .ok ∨
    ∃ k, t.host.result = .err k ∧
      (k = .notInitialized ∨ k = .noResponse ∨ k = .parameter ∨ k = .addressError ∨
       k = .eraseSequence ∨ k = .commandCrc ∨ k = .illegalCommand ∨ k = .eraseReset ∨
       k = .generic ∨ k = .timeout))

/-! ## The machine -/

/-- R33, R171, R159, R225: when a host operation is refused, and by which name: asked for while an
operation is in progress; `Initialize` with the line asserted; `IsReady` and `ReadBlock` with the
transport disabled. And when a step inside an operation is refused: a request presented there (R279),
and a use of the bus with the transport disabled. That these are refusals is the spec's own treatment
U6 to U8 (log entry 9). -/
def Obligations.RefusalsOfTheHostOperations : Prop :=
  (∀ (n : Word) (s : State), s.seq ≠ .idle →
    exec .opInitialize s = .refused .operationInProgress ∧
    exec (.opReadBlock n) s = .refused .operationInProgress ∧
    exec .opIsReady s = .refused .operationInProgress ∧
    exec .opShutdown s = .refused .operationInProgress) ∧
  (∀ s : State, s.seq = .idle → s.bt.csAsserted = true →
    exec .opInitialize s = .refused .selectedAtEntry) ∧
  (∀ (n : Word) (s : State), s.seq = .idle → s.bt.enabled = false →
    exec (.opReadBlock n) s = .refused .transportDisabled ∧
    exec .opIsReady s = .refused .transportDisabled) ∧
  (∀ (s : State) (r : Request), s.seq.resting = false → s.host.request = some r →
    step s = .refused .operationInProgress) ∧
  (∀ s : State, s.seq.resting = false → s.host.request = none → s.handlerDue = false →
    s.bt.enabled = false → s.usesBus params = true → step s = .refused .transportDisabled)

/-- A step runs the decoded instruction: at `Idle` the presented request, taken from the port, and at
`frameFetch` the frame presented there. That the whole operation is one step of the machine is the
model's choice (log entry 3), and so is the position `frameFetch` (log entry 4). -/
def Obligations.StepRunsTheDecodedInstruction : Prop :=
  (∀ (s : State) (r : Request), s.seq = .idle → s.host.request = some r →
    step s = exec (decodeRequest r) { s with host.request := none }) ∧
  (∀ (s : State) (w : Frame) (i : Instr), s.seq = .frameFetch w → decodeFrame w = .ok i →
    step s = exec i s) ∧
  (∀ (s : State) (w : Frame) (e : DecodeError), s.seq = .frameFetch w → decodeFrame w = .error e →
    step s = .refused (.notAFrame e))

/-- R6, R33, R272: with no request presented the host has its turn at `Idle`: it makes no move and the
block waits, or presents a request, or moves the line around its operations (R27, R278; without meaning
on a disabled transport, R159), or supplies a buffer (R52). Nothing else of the block changes. That the
moves are a tape and then a free value is the model's choice (log entry 28). -/
def Obligations.IdleIsTheHostsTurn : Prop :=
  ∀ s : State, s.seq = .idle → s.host.request = none → s.GuardDiscipline →
    (s.hostMove = none → step s = .next s.turn) ∧
    (∀ r, s.hostMove = some (.request r) → step s = .next { s.turn with host.request := some r }) ∧
    (∀ l, s.hostMove = some (.line l) →
      (s.bt.enabled = true → step s = .next { s.turn with bt.csAsserted := l }) ∧
      (s.bt.enabled = false → step s = .refused .transportDisabled)) ∧
    (s.hostMove = some .buffer → step s = .next { s.turn with buffer := [] }) ∧
    { s.turn with env := s.env } = s

/-- R9: inside an operation, one step of the machine is one agent's step, unless it would be refused
(RefusalsOfTheHostOperations): the handler's moment has come, or the transport is enabled, or the next
line does not use it. -/
def Obligations.StepInsideAnOperationIsOneAgentStep : Prop :=
  ∀ s : State, s.seq.resting = false → s.host.request = none →
    s.handlerDue = true ∨ s.bt.enabled = true ∨ s.usesBus params = false →
    s.CountersInRange → step s = .next (busStep params s)

/-- R251: every operation begun in a resting state returns: whatever the card answers and whenever
the guard expires, the run `exec` makes ends at `Idle`. That a run is finite rests on log entry 2, the
model's choice: the expiry delay is a number, which is the fairness of R157. -/
def Obligations.EveryOperationReturns : Prop :=
  ∀ (i : Instr) (s t : State), s.GuardDiscipline → exec i s = .next t →
    t.seq = .idle ∧ t.cmdSeq = .select ∧ t.tg.armed = false

/-- The two levels agree: what `exec` answers is what a run of single steps (R7, R9) reaches from the
state in which the instruction's first line is next. The level that runs an operation at once is the
model's choice (log entry 3; for a frame on its own log entry 4). -/
def Obligations.ExecIsARunOfSteps : Prop :=
  ∀ (i : Instr) (s t : State), s.GuardDiscipline → s.host.request = none →
    exec i s = .next t →
    ∃ n, Host.Core.run Sys2Proof.core n (s.begun i) = .next t

/-- R253: what `TG.expired` holds before an operation is not read: with the other value every
instruction gives the same run but for that flag. -/
def Obligations.FlagBeforeAnOperationIsNotRead : Prop :=
  ∀ (i : Instr) (s t : State) (e : Bool), s.GuardDiscipline → exec i s = .next t →
    ∃ t' : State, exec i { s with tg.expired := e } = .next t' ∧ { t' with tg := t.tg } = t

/-- R271: the values the reset table states or decides. -/
def Obligations.ResetValues : Prop :=
  State.reset.ds.initialized = false ∧ State.reset.tg.armed = false ∧
  State.reset.bt.csAsserted = false ∧ State.reset.bt.divider = .slow ∧
  State.reset.bt.enabled = true ∧ State.reset.seq = .idle

/-- Every invariant stated here holds at reset. The counters and the buffer have no reset value in R271: that
the counters are in range rests on log entry 5, and that the buffer is in canonical form on log entry 6, the
model's choices; so do the working registers in the other invariants. -/
def Obligations.ResetMeetsTheInvariants : Prop :=
  State.reset.GuardDiscipline ∧ State.reset.CountersInRange ∧ State.reset.LineDiscipline ∧
  State.reset.CommandsFitTheCard ∧ State.reset.FrameFitsTheCaller ∧
  State.reset.UninitializedWhileNegotiating ∧
  Memory.wf State.reset.buffer = true

/-- R158, R277: every step keeps the guard's discipline. -/
def Obligations.StepKeepsGuardDiscipline : Prop :=
  ∀ s t : State, s.GuardDiscipline → step s = .next t → t.GuardDiscipline

/-- R31: every step keeps the counters in their ranges and the buffer in its canonical form. That
`byte_count` stays below 512 rests on log entry 31, when `poll_count` is written on log entry 33, the
canonical form of the buffer on log entry 6, the model's choices. -/
def Obligations.StepKeepsCountersAndBuffer : Prop :=
  ∀ s t : State, s.CountersInRange → Memory.wf s.buffer = true → step s = .next t →
    t.CountersInRange ∧ Memory.wf t.buffer = true

/-- R27, R150, R172, R207: every step keeps the chip-select discipline. -/
def Obligations.StepKeepsLineDiscipline : Prop :=
  ∀ s t : State, s.LineDiscipline → step s = .next t → t.LineDiscipline

/-- R21, R170: while `Initialize` is under way the driver is uninitialized; every step keeps that. -/
def Obligations.NegotiatingDriverIsUninitialized : Prop :=
  ∀ s t : State, s.UninitializedWhileNegotiating → step s = .next t → t.UninitializedWhileNegotiating

/-- R256: no input makes the block stop with a fault. The premise keeps `byte_count` below 512, which the
model's choice of log entry 31 makes an invariant. -/
def Obligations.StepNeverFaults : Prop :=
  ∀ (s : State) (f : Fault), s.CountersInRange → step s ≠ .fault f
end

