-- ==== Sys2Proof/Laws/State.lean ====
section
/-! SUPPORT. One lemma per field per update for the primitives of Machine/Ops.lean, so that no later
proof unfolds a record update. -/

namespace Sys2Proof.Machine.State

variable (s : State)

section Select

@[simp] theorem selectOuter_ds : s.selectOuter.ds = s.ds := rfl
@[simp] theorem selectOuter_tg : s.selectOuter.tg = s.tg := rfl
@[simp] theorem selectOuter_bt : s.selectOuter.bt = { s.bt with csAsserted := true } := rfl
@[simp] theorem selectOuter_seq : s.selectOuter.seq = s.seq := rfl
@[simp] theorem selectOuter_cmdSeq : s.selectOuter.cmdSeq = s.cmdSeq := rfl
@[simp] theorem selectOuter_w : s.selectOuter.w = { s.w with priorOuter := s.bt.csAsserted } := rfl
@[simp] theorem selectOuter_host : s.selectOuter.host = s.host := rfl
@[simp] theorem selectOuter_buffer : s.selectOuter.buffer = s.buffer := rfl
@[simp] theorem selectOuter_trace : s.selectOuter.trace = s.trace := rfl
@[simp] theorem selectOuter_env : s.selectOuter.env = s.env := rfl

@[simp] theorem restoreOuter_ds : s.restoreOuter.ds = s.ds := rfl
@[simp] theorem restoreOuter_tg : s.restoreOuter.tg = s.tg := rfl
@[simp] theorem restoreOuter_bt : s.restoreOuter.bt = { s.bt with csAsserted := s.w.priorOuter } := rfl
@[simp] theorem restoreOuter_seq : s.restoreOuter.seq = s.seq := rfl
@[simp] theorem restoreOuter_cmdSeq : s.restoreOuter.cmdSeq = s.cmdSeq := rfl
@[simp] theorem restoreOuter_w : s.restoreOuter.w = s.w := rfl
@[simp] theorem restoreOuter_host : s.restoreOuter.host = s.host := rfl
@[simp] theorem restoreOuter_buffer : s.restoreOuter.buffer = s.buffer := rfl
@[simp] theorem restoreOuter_trace : s.restoreOuter.trace = s.trace := rfl
@[simp] theorem restoreOuter_env : s.restoreOuter.env = s.env := rfl

@[simp] theorem selectInner_ds : s.selectInner.ds = s.ds := rfl
@[simp] theorem selectInner_tg : s.selectInner.tg = s.tg := rfl
@[simp] theorem selectInner_bt : s.selectInner.bt = { s.bt with csAsserted := true } := rfl
@[simp] theorem selectInner_seq : s.selectInner.seq = s.seq := rfl
@[simp] theorem selectInner_cmdSeq : s.selectInner.cmdSeq = s.cmdSeq := rfl
@[simp] theorem selectInner_w : s.selectInner.w = { s.w with priorInner := s.bt.csAsserted } := rfl
@[simp] theorem selectInner_host : s.selectInner.host = s.host := rfl
@[simp] theorem selectInner_buffer : s.selectInner.buffer = s.buffer := rfl
@[simp] theorem selectInner_trace : s.selectInner.trace = s.trace := rfl
@[simp] theorem selectInner_env : s.selectInner.env = s.env := rfl

@[simp] theorem restoreInner_ds : s.restoreInner.ds = s.ds := rfl
@[simp] theorem restoreInner_tg : s.restoreInner.tg = s.tg := rfl
@[simp] theorem restoreInner_bt : s.restoreInner.bt = { s.bt with csAsserted := s.w.priorInner } := rfl
@[simp] theorem restoreInner_seq : s.restoreInner.seq = s.seq := rfl
@[simp] theorem restoreInner_cmdSeq : s.restoreInner.cmdSeq = s.cmdSeq := rfl
@[simp] theorem restoreInner_w : s.restoreInner.w = s.w := rfl
@[simp] theorem restoreInner_host : s.restoreInner.host = s.host := rfl
@[simp] theorem restoreInner_buffer : s.restoreInner.buffer = s.buffer := rfl
@[simp] theorem restoreInner_trace : s.restoreInner.trace = s.trace := rfl
@[simp] theorem restoreInner_env : s.restoreInner.env = s.env := rfl

end Select

section Transfer

variable (b : Byte)

@[simp] theorem xfer_ds : (s.xfer b).ds = s.ds := rfl
@[simp] theorem xfer_tg : (s.xfer b).tg = s.tg := rfl
@[simp] theorem xfer_bt : (s.xfer b).bt = s.bt := rfl
@[simp] theorem xfer_seq : (s.xfer b).seq = s.seq := rfl
@[simp] theorem xfer_cmdSeq : (s.xfer b).cmdSeq = s.cmdSeq := rfl
@[simp] theorem xfer_w : (s.xfer b).w = s.w := rfl
@[simp] theorem xfer_host : (s.xfer b).host = s.host := rfl
@[simp] theorem xfer_buffer : (s.xfer b).buffer = s.buffer := rfl
@[simp] theorem xfer_trace :
    (s.xfer b).trace = s.trace ++ [⟨s.bt.csAsserted, s.bt.divider, b, s.cardByte⟩] := rfl
@[simp] theorem xfer_cardIn : (s.xfer b).env.cardIn = s.env.cardIn.tail := rfl
@[simp] theorem xfer_transfers : (s.xfer b).env.transfers = s.env.transfers + 1 := rfl
@[simp] theorem xfer_expiryIn : (s.xfer b).env.expiryIn = s.env.expiryIn := rfl
@[simp] theorem xfer_arms : (s.xfer b).env.arms = s.env.arms := rfl
@[simp] theorem xfer_countdown : (s.xfer b).env.countdown = s.env.countdown := rfl
@[simp] theorem xfer_hostIn : (s.xfer b).env.hostIn = s.env.hostIn := rfl
@[simp] theorem xfer_turns : (s.xfer b).env.turns = s.env.turns := rfl
@[simp] theorem xfer_encoded : (s.xfer b).env.encoded = s.env.encoded := rfl

end Transfer

section Transport

variable (d : Divider)

@[simp] theorem setDivider_ds : (s.setDivider d).ds = s.ds := rfl
@[simp] theorem setDivider_tg : (s.setDivider d).tg = s.tg := rfl
@[simp] theorem setDivider_bt : (s.setDivider d).bt = { s.bt with divider := d } := rfl
@[simp] theorem setDivider_seq : (s.setDivider d).seq = s.seq := rfl
@[simp] theorem setDivider_cmdSeq : (s.setDivider d).cmdSeq = s.cmdSeq := rfl
@[simp] theorem setDivider_w : (s.setDivider d).w = s.w := rfl
@[simp] theorem setDivider_host : (s.setDivider d).host = s.host := rfl
@[simp] theorem setDivider_buffer : (s.setDivider d).buffer = s.buffer := rfl
@[simp] theorem setDivider_trace : (s.setDivider d).trace = s.trace := rfl
@[simp] theorem setDivider_env : (s.setDivider d).env = s.env := rfl

@[simp] theorem enable_ds : s.enable.ds = s.ds := rfl
@[simp] theorem enable_tg : s.enable.tg = s.tg := rfl
@[simp] theorem enable_bt : s.enable.bt = { s.bt with enabled := true } := rfl
@[simp] theorem enable_seq : s.enable.seq = s.seq := rfl
@[simp] theorem enable_cmdSeq : s.enable.cmdSeq = s.cmdSeq := rfl
@[simp] theorem enable_w : s.enable.w = s.w := rfl
@[simp] theorem enable_host : s.enable.host = s.host := rfl
@[simp] theorem enable_buffer : s.enable.buffer = s.buffer := rfl
@[simp] theorem enable_trace : s.enable.trace = s.trace := rfl
@[simp] theorem enable_env : s.enable.env = s.env := rfl

@[simp] theorem disable_ds : s.disable.ds = s.ds := rfl
@[simp] theorem disable_tg : s.disable.tg = s.tg := rfl
@[simp] theorem disable_bt : s.disable.bt = { s.bt with enabled := false } := rfl
@[simp] theorem disable_seq : s.disable.seq = s.seq := rfl
@[simp] theorem disable_cmdSeq : s.disable.cmdSeq = s.cmdSeq := rfl
@[simp] theorem disable_w : s.disable.w = s.w := rfl
@[simp] theorem disable_host : s.disable.host = s.host := rfl
@[simp] theorem disable_buffer : s.disable.buffer = s.buffer := rfl
@[simp] theorem disable_trace : s.disable.trace = s.trace := rfl
@[simp] theorem disable_env : s.disable.env = s.env := rfl

end Transport

section Guard

variable (d : Nat)

@[simp] theorem arm_ds : (s.arm d).ds = s.ds := rfl
@[simp] theorem arm_tg : (s.arm d).tg = ⟨false, true⟩ := rfl
@[simp] theorem arm_bt : (s.arm d).bt = s.bt := rfl
@[simp] theorem arm_seq : (s.arm d).seq = s.seq := rfl
@[simp] theorem arm_cmdSeq : (s.arm d).cmdSeq = s.cmdSeq := rfl
@[simp] theorem arm_w : (s.arm d).w = s.w := rfl
@[simp] theorem arm_host : (s.arm d).host = s.host := rfl
@[simp] theorem arm_buffer : (s.arm d).buffer = s.buffer := rfl
@[simp] theorem arm_trace : (s.arm d).trace = s.trace := rfl
@[simp] theorem arm_countdown : (s.arm d).env.countdown = s.nextDelay := rfl
@[simp] theorem arm_cardIn : (s.arm d).env.cardIn = s.env.cardIn := rfl
@[simp] theorem arm_transfers : (s.arm d).env.transfers = s.env.transfers := rfl
@[simp] theorem arm_hostIn : (s.arm d).env.hostIn = s.env.hostIn := rfl
@[simp] theorem arm_turns : (s.arm d).env.turns = s.env.turns := rfl
@[simp] theorem arm_encoded : (s.arm d).env.encoded = s.env.encoded := rfl

@[simp] theorem disarm_ds : s.disarm.ds = s.ds := rfl
@[simp] theorem disarm_tg : s.disarm.tg = ⟨s.tg.expired, false⟩ := rfl
@[simp] theorem disarm_bt : s.disarm.bt = s.bt := rfl
@[simp] theorem disarm_seq : s.disarm.seq = s.seq := rfl
@[simp] theorem disarm_cmdSeq : s.disarm.cmdSeq = s.cmdSeq := rfl
@[simp] theorem disarm_w : s.disarm.w = s.w := rfl
@[simp] theorem disarm_host : s.disarm.host = s.host := rfl
@[simp] theorem disarm_buffer : s.disarm.buffer = s.buffer := rfl
@[simp] theorem disarm_trace : s.disarm.trace = s.trace := rfl
@[simp] theorem disarm_env : s.disarm.env = s.env := rfl

@[simp] theorem expiryHandler_ds : s.expiryHandler.ds = s.ds := rfl
@[simp] theorem expiryHandler_tg : s.expiryHandler.tg = ⟨true, false⟩ := rfl
@[simp] theorem expiryHandler_bt : s.expiryHandler.bt = s.bt := rfl
@[simp] theorem expiryHandler_seq : s.expiryHandler.seq = s.seq := rfl
@[simp] theorem expiryHandler_cmdSeq : s.expiryHandler.cmdSeq = s.cmdSeq := rfl
@[simp] theorem expiryHandler_w : s.expiryHandler.w = s.w := rfl
@[simp] theorem expiryHandler_host : s.expiryHandler.host = s.host := rfl
@[simp] theorem expiryHandler_buffer : s.expiryHandler.buffer = s.buffer := rfl
@[simp] theorem expiryHandler_trace : s.expiryHandler.trace = s.trace := rfl
@[simp] theorem expiryHandler_env : s.expiryHandler.env = s.env := rfl

@[simp] theorem hasExpired_eq : s.hasExpired = s.tg.expired := rfl

theorem handlerDue_iff : s.handlerDue = true ↔ s.tg.armed = true ∧ s.env.countdown = 0 := by
  simp [handlerDue]

/-- A disarmed guard: the handler has no step. -/
theorem handlerDue_of_disarmed (h : s.tg.armed = false) : s.handlerDue = false := by
  simp [handlerDue, h]

/-- A disarmed guard: no countdown passes. -/
theorem tick_of_disarmed (h : s.tg.armed = false) : s.tick = s := by simp [tick, h]

/-- An armed guard: one step passes. -/
theorem tick_of_armed (h : s.tg.armed = true) :
    s.tick = { s with env.countdown := s.env.countdown - 1 } := by simp [tick, h]

@[simp] theorem tick_ds : s.tick.ds = s.ds := by unfold tick; split <;> rfl
@[simp] theorem tick_tg : s.tick.tg = s.tg := by unfold tick; split <;> rfl
@[simp] theorem tick_bt : s.tick.bt = s.bt := by unfold tick; split <;> rfl
@[simp] theorem tick_seq : s.tick.seq = s.seq := by unfold tick; split <;> rfl
@[simp] theorem tick_cmdSeq : s.tick.cmdSeq = s.cmdSeq := by unfold tick; split <;> rfl
@[simp] theorem tick_w : s.tick.w = s.w := by unfold tick; split <;> rfl
@[simp] theorem tick_host : s.tick.host = s.host := by unfold tick; split <;> rfl
@[simp] theorem tick_buffer : s.tick.buffer = s.buffer := by unfold tick; split <;> rfl
@[simp] theorem tick_trace : s.tick.trace = s.trace := by unfold tick; split <;> rfl
@[simp] theorem tick_cardIn : s.tick.env.cardIn = s.env.cardIn := by unfold tick; split <;> rfl
@[simp] theorem tick_transfers : s.tick.env.transfers = s.env.transfers := by
  unfold tick; split <;> rfl
@[simp] theorem tick_expiryIn : s.tick.env.expiryIn = s.env.expiryIn := by unfold tick; split <;> rfl
@[simp] theorem tick_arms : s.tick.env.arms = s.env.arms := by unfold tick; split <;> rfl
@[simp] theorem tick_hostIn : s.tick.env.hostIn = s.env.hostIn := by unfold tick; split <;> rfl
@[simp] theorem tick_turns : s.tick.env.turns = s.env.turns := by unfold tick; split <;> rfl
@[simp] theorem tick_encoded : s.tick.env.encoded = s.env.encoded := by unfold tick; split <;> rfl
@[simp] theorem tick_cardByte : s.tick.cardByte = s.cardByte := by simp [cardByte]
@[simp] theorem tick_nextDelay : s.tick.nextDelay = s.nextDelay := by simp [nextDelay]

end Guard

section Results

variable (r : HostResult)

@[simp] theorem deliver_ds : (s.deliver r).ds = s.ds := rfl
@[simp] theorem deliver_tg : (s.deliver r).tg = s.tg := rfl
@[simp] theorem deliver_bt : (s.deliver r).bt = s.bt := rfl
@[simp] theorem deliver_seq : (s.deliver r).seq = .idle := rfl
@[simp] theorem deliver_cmdSeq : (s.deliver r).cmdSeq = .select := rfl
@[simp] theorem deliver_w : (s.deliver r).w = Work.reset := rfl
@[simp] theorem deliver_host : (s.deliver r).host = { s.host with result := r } := rfl
@[simp] theorem deliver_buffer : (s.deliver r).buffer = s.buffer := rfl
@[simp] theorem deliver_trace : (s.deliver r).trace = s.trace := rfl
@[simp] theorem deliver_env : (s.deliver r).env = s.env := rfl

variable (k : ErrorKind)

@[simp] theorem raise_ds : (s.raise k).ds = s.ds := rfl
@[simp] theorem raise_tg : (s.raise k).tg = s.tg := rfl
@[simp] theorem raise_bt : (s.raise k).bt = s.bt := rfl
@[simp] theorem raise_seq : (s.raise k).seq = s.seq.abort := rfl
@[simp] theorem raise_cmdSeq : (s.raise k).cmdSeq = s.cmdSeq := rfl
@[simp] theorem raise_w : (s.raise k).w = { s.w with kind := k } := rfl
@[simp] theorem raise_host : (s.raise k).host = s.host := rfl
@[simp] theorem raise_buffer : (s.raise k).buffer = s.buffer := rfl
@[simp] theorem raise_trace : (s.raise k).trace = s.trace := rfl
@[simp] theorem raise_env : (s.raise k).env = s.env := rfl

end Results

section Host

variable (r : Request) (l : Bool)

@[simp] theorem turn_ds : s.turn.ds = s.ds := rfl
@[simp] theorem turn_tg : s.turn.tg = s.tg := rfl
@[simp] theorem turn_bt : s.turn.bt = s.bt := rfl
@[simp] theorem turn_seq : s.turn.seq = s.seq := rfl
@[simp] theorem turn_cmdSeq : s.turn.cmdSeq = s.cmdSeq := rfl
@[simp] theorem turn_w : s.turn.w = s.w := rfl
@[simp] theorem turn_host : s.turn.host = s.host := rfl
@[simp] theorem turn_buffer : s.turn.buffer = s.buffer := rfl
@[simp] theorem turn_trace : s.turn.trace = s.trace := rfl
@[simp] theorem turn_cardIn : s.turn.env.cardIn = s.env.cardIn := rfl
@[simp] theorem turn_transfers : s.turn.env.transfers = s.env.transfers := rfl
@[simp] theorem turn_expiryIn : s.turn.env.expiryIn = s.env.expiryIn := rfl
@[simp] theorem turn_arms : s.turn.env.arms = s.env.arms := rfl
@[simp] theorem turn_countdown : s.turn.env.countdown = s.env.countdown := rfl
@[simp] theorem turn_hostIn : s.turn.env.hostIn = s.env.hostIn.tail := rfl
@[simp] theorem turn_turns : s.turn.env.turns = s.env.turns + 1 := rfl
@[simp] theorem turn_encoded : s.turn.env.encoded = s.env.encoded := rfl

@[simp] theorem present_ds : (s.present r).ds = s.ds := rfl
@[simp] theorem present_tg : (s.present r).tg = s.tg := rfl
@[simp] theorem present_bt : (s.present r).bt = s.bt := rfl
@[simp] theorem present_seq : (s.present r).seq = s.seq := rfl
@[simp] theorem present_cmdSeq : (s.present r).cmdSeq = s.cmdSeq := rfl
@[simp] theorem present_w : (s.present r).w = s.w := rfl
@[simp] theorem present_host : (s.present r).host = { s.host with request := some r } := rfl
@[simp] theorem present_buffer : (s.present r).buffer = s.buffer := rfl
@[simp] theorem present_trace : (s.present r).trace = s.trace := rfl
@[simp] theorem present_env : (s.present r).env = s.env := rfl

@[simp] theorem hostLine_ds : (s.hostLine l).ds = s.ds := rfl
@[simp] theorem hostLine_tg : (s.hostLine l).tg = s.tg := rfl
@[simp] theorem hostLine_bt : (s.hostLine l).bt = { s.bt with csAsserted := l } := rfl
@[simp] theorem hostLine_seq : (s.hostLine l).seq = s.seq := rfl
@[simp] theorem hostLine_cmdSeq : (s.hostLine l).cmdSeq = s.cmdSeq := rfl
@[simp] theorem hostLine_w : (s.hostLine l).w = s.w := rfl
@[simp] theorem hostLine_host : (s.hostLine l).host = s.host := rfl
@[simp] theorem hostLine_buffer : (s.hostLine l).buffer = s.buffer := rfl
@[simp] theorem hostLine_trace : (s.hostLine l).trace = s.trace := rfl
@[simp] theorem hostLine_env : (s.hostLine l).env = s.env := rfl

@[simp] theorem newBuffer_ds : s.newBuffer.ds = s.ds := rfl
@[simp] theorem newBuffer_tg : s.newBuffer.tg = s.tg := rfl
@[simp] theorem newBuffer_bt : s.newBuffer.bt = s.bt := rfl
@[simp] theorem newBuffer_seq : s.newBuffer.seq = s.seq := rfl
@[simp] theorem newBuffer_cmdSeq : s.newBuffer.cmdSeq = s.cmdSeq := rfl
@[simp] theorem newBuffer_w : s.newBuffer.w = s.w := rfl
@[simp] theorem newBuffer_host : s.newBuffer.host = s.host := rfl
@[simp] theorem newBuffer_buffer : s.newBuffer.buffer = [] := rfl
@[simp] theorem newBuffer_trace : s.newBuffer.trace = s.trace := rfl
@[simp] theorem newBuffer_env : s.newBuffer.env = s.env := rfl

end Host

end Sys2Proof.Machine.State
end

