-- ==== Sys2Proof/Laws/Answers.lean ====
section
/-! SUPPORT. The card's coming answers: the one of the next transfer, and how a transfer moves the
others up; and that only a transfer does. -/

namespace Sys2Proof.Machine.State

variable (s : State)

theorem answer_zero : s.answer 0 = s.cardByte := by
  unfold answer cardByte
  cases s.env.cardIn <;> simp

theorem answer_xfer (b : Byte) (n : Nat) : (s.xfer b).answer n = s.answer (n + 1) := by
  unfold answer
  cases h : s.env.cardIn with
  | nil => simp [h, Nat.add_assoc, Nat.add_comm 1 n]
  | cons x rest => simp [h, Nat.add_assoc, Nat.add_comm 1 n]

/-- The answers depend on the environment's tape and counter only. -/
theorem answer_congr {s t : State} (hIn : s.env.cardIn = t.env.cardIn)
    (hN : s.env.transfers = t.env.transfers) (n : Nat) : s.answer n = t.answer n := by
  simp [answer, hIn, hN]

end Sys2Proof.Machine.State
end

