-- ==== Sys2Proof/Laws/Encoding.lean ====
section
/-! SUPPORT. The bits of a frame put together from six bytes, and those of an encoded frame (R71). -/

namespace Sys2Proof

/-- Bit `n` of six bytes put together (R71). -/
theorem getLsbD_frameOfBytes (b0 b1 b2 b3 b4 b5 : Byte) (n : Nat) :
    (frameOfBytes b0 b1 b2 b3 b4 b5).getLsbD n =
      if n < 8 then b5.getLsbD n
      else if n < 16 then b4.getLsbD (n - 8)
      else if n < 24 then b3.getLsbD (n - 16)
      else if n < 32 then b2.getLsbD (n - 24)
      else if n < 40 then b1.getLsbD (n - 32)
      else b0.getLsbD (n - 40) := by
  unfold frameOfBytes
  erw [BitVec.getLsbD_append, BitVec.getLsbD_append, BitVec.getLsbD_append, BitVec.getLsbD_append,
    BitVec.getLsbD_append]
  simp only [Nat.sub_sub, Nat.reduceAdd]
  split_ifs <;> first | rfl | omega

/-- The encoder puts together the six bytes of R100. -/
theorem encodeFrame_eq (k : Command) : encodeFrame k =
    frameOfBytes (0x40#8 ||| k.index.setWidth 8) (k.arg.extractLsb' 24 8) (k.arg.extractLsb' 16 8)
      (k.arg.extractLsb' 8 8) (k.arg.extractLsb' 0 8) ((k.check.setWidth 8 <<< 1) ||| 1#8) := rfl

/-- Bit `n` of an encoded frame: the stop bit, the check value, the argument, the index and the two
framing bits (R71). -/
theorem getLsbD_encodeFrame (k : Command) (n : Nat) (h : n < 48) :
    (encodeFrame k).getLsbD n =
      if n = 0 then true
      else if n < 8 then k.check.getLsbD (n - 1)
      else if n < 40 then k.arg.getLsbD (n - 8)
      else if n < 46 then k.index.getLsbD (n - 40)
      else decide (n = 46) := by
  rw [encodeFrame_eq, getLsbD_frameOfBytes]
  interval_cases n <;> simp

/-- The fields of an encoded frame are the operands it was built from (R71, R110). -/
theorem frameCommand_encodeFrame (k : Command) : frameCommand (encodeFrame k) = k := by
  have e := getLsbD_encodeFrame k
  obtain ⟨index, arg, check⟩ := k
  simp only [frameCommand, Command.mk.injEq]
  refine ⟨?_, ?_, ?_⟩ <;> apply BitVec.eq_of_getLsbD_eq <;> intro n hn <;>
    rw [BitVec.getLsbD_extractLsb', e _ (by omega)]
  · rw [if_neg (by omega), if_neg (by omega), if_neg (by omega), if_pos (by omega)]; simp [hn]
  · rw [if_neg (by omega), if_neg (by omega), if_pos (by omega)]; simp [hn]
  · rw [if_neg (by omega), if_pos (by omega)]; simp [hn]

end Sys2Proof
end

