-- ==== Sys2Proof/Laws/Memory.lean ====
section
/-! SUPPORT. The caller's buffer: a write is read back, leaves every other position alone, and keeps
the canonical form. -/

namespace Sys2Proof.Machine

namespace Memory

theorem read_write_self (m : Memory) (a : Nat) (b : Byte) : (Memory.write m a b).read a = some b := by
  induction m with
  | nil => simp [Memory.write, Memory.read]
  | cons cell rest ih =>
    obtain ⟨k, v⟩ := cell
    unfold Memory.write
    split
    · simp [Memory.read]
    · split
      · simp [Memory.read]
      · next h₁ h₂ => simpa [Memory.read, h₂] using ih

theorem read_write_other (m : Memory) {a a' : Nat} (b : Byte) (h : a' ≠ a) :
    (Memory.write m a b).read a' = Memory.read m a' := by
  induction m with
  | nil => simp [Memory.write, Memory.read, h]
  | cons cell rest ih =>
    obtain ⟨k, v⟩ := cell
    unfold Memory.write
    split
    · simp [Memory.read, h]
    · split
      · next h₁ h₂ => subst h₂; simp [Memory.read, h]
      · simp [Memory.read, ih]

/-- A read after a write, at every position. -/
theorem read_write (m : Memory) (a a' : Nat) (b : Byte) :
    (Memory.write m a b).read a' = if a' = a then some b else Memory.read m a' := by
  split
  · next h => rw [h, read_write_self]
  · next h => exact read_write_other m b h

theorem risesFrom_write {lo a : Nat} {m : Memory} (b : Byte) (h : m.risesFrom lo = true)
    (hlo : lo ≤ a) (ha : a < bufferLen) : (Memory.write m a b).risesFrom lo = true := by
  induction m generalizing lo with
  | nil => simp [Memory.write, Memory.risesFrom, hlo, ha]
  | cons cell rest ih =>
    obtain ⟨k, v⟩ := cell
    simp only [Memory.risesFrom, Bool.and_eq_true, decide_eq_true_eq] at h
    obtain ⟨⟨hk, hkl⟩, hrest⟩ := h
    unfold Memory.write
    split
    · next hak =>
      simp only [Memory.risesFrom, Bool.and_eq_true, decide_eq_true_eq]
      exact ⟨⟨hlo, ha⟩, ⟨by omega, hkl⟩, hrest⟩
    · split
      · next hak =>
        subst hak
        simp only [Memory.risesFrom, Bool.and_eq_true, decide_eq_true_eq]
        exact ⟨⟨hk, hkl⟩, hrest⟩
      · simp only [Memory.risesFrom, Bool.and_eq_true, decide_eq_true_eq]
        exact ⟨⟨hk, hkl⟩, ih hrest (by omega)⟩

/-- The one memory operation keeps the canonical form. -/
theorem wf_write {a : Nat} {m : Memory} (b : Byte) (h : Memory.wf m = true) (ha : a < bufferLen) :
    Memory.wf (Memory.write m a b) = true :=
  risesFrom_write b h (Nat.zero_le a) ha

end Memory

namespace State

variable (s : State) (i : Nat) (b : Byte)

@[simp] theorem memWrite_ds : (s.memWrite i b).ds = s.ds := by unfold memWrite; split <;> rfl
@[simp] theorem memWrite_tg : (s.memWrite i b).tg = s.tg := by unfold memWrite; split <;> rfl
@[simp] theorem memWrite_bt : (s.memWrite i b).bt = s.bt := by unfold memWrite; split <;> rfl
@[simp] theorem memWrite_seq : (s.memWrite i b).seq = s.seq := by unfold memWrite; split <;> rfl
@[simp] theorem memWrite_cmdSeq : (s.memWrite i b).cmdSeq = s.cmdSeq := by
  unfold memWrite; split <;> rfl
@[simp] theorem memWrite_w : (s.memWrite i b).w = s.w := by unfold memWrite; split <;> rfl
@[simp] theorem memWrite_host : (s.memWrite i b).host = s.host := by unfold memWrite; split <;> rfl
@[simp] theorem memWrite_trace : (s.memWrite i b).trace = s.trace := by unfold memWrite; split <;> rfl
@[simp] theorem memWrite_env : (s.memWrite i b).env = s.env := by unfold memWrite; split <;> rfl

/-- `MemWrite` changes the buffer only, and only at a position it has (R52). -/
theorem memWrite_buffer_eq : (s.memWrite i b).buffer =
    if i < bufferLen then Memory.write s.buffer i b else s.buffer := by
  unfold memWrite; split <;> rfl

theorem memWrite_buffer (h : i < bufferLen) : (s.memWrite i b).buffer = Memory.write s.buffer i b := by
  simp [memWrite, h]

/-- Every write to the buffer keeps its canonical form. -/
theorem memWrite_wf (h : Memory.wf s.buffer = true) : Memory.wf (s.memWrite i b).buffer = true := by
  unfold memWrite
  split
  · exact Memory.wf_write b h ‹_›
  · exact h

end State

end Sys2Proof.Machine
end

