-- ==== Sys2Proof/Laws/PerInstr.lean ====
section
/-! SUPPORT. Per instruction: the word the encoder gives it lies in its own row of
spec/opcode_table.json, by that row's `mask` and `match`. -/

namespace Sys2Proof.Laws.TableRow

open Sys2Proof

/-- A row of spec/opcode_table.json as it stands there: format, mask and match. -/
inductive Row where
  /-- A `frame48` row: bits fixed in the 48-bit word of R71. -/
  | frame48 (mask value : Frame)
  /-- A `hostop2` row: the operation select of R84, all of it fixed. -/
  | hostop2 (value : BitVec 2)

/-- Does a word lie in the row. -/
def Row.holds : Row → InstrWord → Prop
  | .frame48 mask value, .frame w => w &&& mask = value
  | .hostop2 value, .request r => r.op = value
  | .frame48 _ _, .request _ => False
  | .hostop2 _, .frame _ => False

/-- Each constructor's row, copied from spec/opcode_table.json. -/
def row : Instr → Row
  | .cmd0 => .frame48 0xFFFFFFFFFFFF#48 0x400000000095#48
  | .cmd8 => .frame48 0xFFFFFFFFFFFF#48 0x48000001AA87#48
  | .cmd16 => .frame48 0xFFFFFFFFFFFF#48 0x500000020001#48
  | .cmd17 _ => .frame48 0xFF00000000FF#48 0x510000000001#48
  | .cmd55 => .frame48 0xFFFFFFFFFFFF#48 0x770000000001#48
  | .acmd41 _ => .frame48 0xFFBFFFFFFFFF#48 0x690000000001#48
  | .cmd58 => .frame48 0xFFFFFFFFFFFF#48 0x7A0000000001#48
  | .cmdGeneric _ _ _ => .frame48 0xC00000000001#48 0x400000000001#48
  | .opInitialize => .hostop2 0#2
  | .opReadBlock _ => .hostop2 1#2
  | .opIsReady => .hostop2 2#2
  | .opShutdown => .hostop2 3#2

/-- The instruction's word lies in its row. -/
def Statement (i : Instr) : Prop := (row i).holds (encode i)

theorem cmd0 : Statement .cmd0 := by simp only [Statement, row, Row.holds, encode]; decide
theorem cmd8 : Statement .cmd8 := by simp only [Statement, row, Row.holds, encode]; decide
theorem cmd16 : Statement .cmd16 := by simp only [Statement, row, Row.holds, encode]; decide

theorem cmd17 (address : Word) : Statement (.cmd17 address) := by
  simp only [Statement, row, Row.holds, encode]
  apply BitVec.eq_of_getLsbD_eq
  intro n hn
  rw [BitVec.getLsbD_and, getLsbD_encodeFrame _ n hn]
  interval_cases n <;> simp [readSingleCommand, Machine.params]

theorem cmd55 : Statement .cmd55 := by simp only [Statement, row, Row.holds, encode]; decide

theorem acmd41 (hcs : Bool) : Statement (.acmd41 hcs) := by
  simp only [Statement, row, Row.holds, encode]; cases hcs <;> decide

theorem cmd58 : Statement .cmd58 := by simp only [Statement, row, Row.holds, encode]; decide

theorem cmdGeneric (index : BitVec 6) (arg : Word) (check : BitVec 7) :
    Statement (.cmdGeneric index arg check) := by
  simp only [Statement, row, Row.holds, encode]
  apply BitVec.eq_of_getLsbD_eq
  intro n hn
  rw [BitVec.getLsbD_and, getLsbD_encodeFrame _ n hn]
  interval_cases n <;> simp

theorem opInitialize : Statement .opInitialize := rfl
theorem opReadBlock (blockNumber : Word) : Statement (.opReadBlock blockNumber) := rfl
theorem opIsReady : Statement .opIsReady := rfl
theorem opShutdown : Statement .opShutdown := rfl

end Sys2Proof.Laws.TableRow
end

