-- ==== Sys2Proof/Laws/Run.lean ====
section
/-! SUPPORT. The run of agents' steps: how runs compose, that a resting state ends a run, that what every
agent's step keeps a run keeps; and everything the guards of the meanings and `step` can answer. -/

namespace Sys2Proof.Machine

namespace State

variable (s : State)

section Start

variable (p : Pos) (w : Work)

@[simp] theorem startAt_ds : (s.startAt p w).ds = s.ds := rfl
@[simp] theorem startAt_tg : (s.startAt p w).tg = s.tg := rfl
@[simp] theorem startAt_bt : (s.startAt p w).bt = s.bt := rfl
@[simp] theorem startAt_seq : (s.startAt p w).seq = p := rfl
@[simp] theorem startAt_cmdSeq : (s.startAt p w).cmdSeq = .select := rfl
@[simp] theorem startAt_w : (s.startAt p w).w = w := rfl
@[simp] theorem startAt_host : (s.startAt p w).host = s.host := rfl
@[simp] theorem startAt_buffer : (s.startAt p w).buffer = s.buffer := rfl
@[simp] theorem startAt_trace : (s.startAt p w).trace = s.trace := rfl
@[simp] theorem startAt_env : (s.startAt p w).env = s.env := rfl

end Start

section Encode

variable (k : Command)

@[simp] theorem encodeAlone_ds : (s.encodeAlone k).ds = s.ds := rfl
@[simp] theorem encodeAlone_tg : (s.encodeAlone k).tg = s.tg := rfl
@[simp] theorem encodeAlone_bt : (s.encodeAlone k).bt = s.bt := rfl
@[simp] theorem encodeAlone_seq : (s.encodeAlone k).seq = .idle := rfl
@[simp] theorem encodeAlone_cmdSeq : (s.encodeAlone k).cmdSeq = .select := rfl
@[simp] theorem encodeAlone_w : (s.encodeAlone k).w = s.w := rfl
@[simp] theorem encodeAlone_host : (s.encodeAlone k).host = s.host := rfl
@[simp] theorem encodeAlone_buffer : (s.encodeAlone k).buffer = s.buffer := rfl
@[simp] theorem encodeAlone_trace : (s.encodeAlone k).trace = s.trace := rfl
@[simp] theorem encodeAlone_env : (s.encodeAlone k).env = { s.env with encoded := some (encodeFrame k) } := rfl

end Encode

end State

variable (c : Params)

/-- Everything one agent's step can be: the handler's, or the sequencer's after the countdown moved. -/
theorem busStep_cases (s : State) :
    (s.handlerDue = true ∧ busStep c s = s.expiryHandler) ∨
    (s.handlerDue = false ∧ busStep c s = sequencerStep c s.tick) := by
  cases h : s.handlerDue <;> simp [busStep, h]

theorem busStep_disarmed {s : State} (h : s.tg.armed = false) : busStep c s = sequencerStep c s := by
  simp [busStep, s.handlerDue_of_disarmed h, s.tick_of_disarmed h]

/-- While an armed guard's delay lasts, the sequencer steps and one step of it passes. -/
theorem busStep_armed {s : State} (h : s.tg.armed = true) (hd : 0 < s.env.countdown) :
    busStep c s = sequencerStep c { s with env.countdown := s.env.countdown - 1 } := by
  have : s.handlerDue = false := by
    cases hh : s.handlerDue
    · rfl
    · exact absurd ((s.handlerDue_iff).1 hh).2 (by omega)
  simp [busStep, this, s.tick_of_armed h]

@[simp] theorem runSteps_zero (s : State) : runSteps c 0 s = s := rfl

theorem runSteps_resting (n : Nat) {s : State} (h : s.seq.resting = true) : runSteps c n s = s := by
  cases n <;> simp [runSteps, h]

theorem runSteps_succ (n : Nat) {s : State} (h : s.seq.resting = false) :
    runSteps c (n + 1) s = runSteps c n (busStep c s) := by
  simp [runSteps, h]

/-- A run of `m + n` steps is a run of `m` and then a run of `n`. -/
theorem runSteps_add (m n : Nat) (s : State) :
    runSteps c (m + n) s = runSteps c n (runSteps c m s) := by
  induction m generalizing s with
  | zero => simp
  | succ m ih =>
    cases h : s.seq.resting with
    | true => simp [runSteps_resting c _ h]
    | false => rw [Nat.succ_add, runSteps_succ c _ h, runSteps_succ c _ h, ih]

/-- Once a run has come to rest within `m` steps, every longer run is that run. -/
theorem runSteps_of_le {m n : Nat} {s : State} (h : (runSteps c m s).seq.resting = true)
    (hmn : m ≤ n) : runSteps c n s = runSteps c m s := by
  obtain ⟨k, rfl⟩ := Nat.exists_eq_add_of_le hmn
  rw [runSteps_add, runSteps_resting c _ h]

/-- What every agent's step keeps, a run keeps. -/
theorem runSteps_preserves {P : State → Prop} (hstep : ∀ s, P s → P (busStep c s)) (n : Nat)
    {s : State} (h : P s) : P (runSteps c n s) := by
  induction n generalizing s with
  | zero => exact h
  | succ n ih =>
    cases hr : s.seq.resting with
    | true => rw [runSteps_resting c _ hr]; exact h
    | false => rw [runSteps_succ c _ hr]; exact ih (hstep s h)

/-- What every agent's step inside an operation keeps, a run keeps. -/
theorem runSteps_preserves_inside {P : State → Prop}
    (hstep : ∀ s, s.seq.resting = false → P s → P (busStep c s)) (n : Nat) {s : State} (h : P s) :
    P (runSteps c n s) := by
  induction n generalizing s with
  | zero => exact h
  | succ n ih =>
    cases hr : s.seq.resting with
    | true => rw [runSteps_resting c _ hr]; exact h
    | false => rw [runSteps_succ c _ hr]; exact ih (hstep s hr h)

/-! ## What the guards of the meanings answer -/

/-- Everything `whenResting` can answer. -/
theorem whenResting_next {s run t : State} :
    s.whenResting run = .next t ↔ s.seq.resting = true ∧ run = t := by
  unfold State.whenResting
  split <;> simp_all

/-- Everything `callAlone` can answer. -/
theorem callAlone_next {s run t : State} :
    s.callAlone run = .next t ↔ s.seq.resting = true ∧ s.bt.enabled = true ∧ run = t := by
  unfold State.callAlone State.whenResting
  cases h : s.seq.resting <;> cases h' : s.bt.enabled <;> simp

/-- Everything `whenIdle` can answer. -/
theorem whenIdle_next {s run t : State} : s.whenIdle run = .next t ↔ s.seq = .idle ∧ run = t := by
  unfold State.whenIdle
  split <;> simp [*]

/-- Everything `whenEnabled` can answer. -/
theorem whenEnabled_next {s run t : State} :
    s.whenEnabled run = .next t ↔ s.seq = .idle ∧ s.bt.enabled = true ∧ run = t := by
  unfold State.whenEnabled State.whenIdle
  cases h' : s.bt.enabled <;> by_cases h : s.seq = .idle <;> simp [h]

/-! ## What `step` answers -/

/-- Everything the host's turn can answer: whatever it does, only the line, the request and the buffer
of the block can be other than before, and nothing moves while no move is made. -/
theorem hostStep_next {s t : State} (h : hostStep s = .next t) :
    t = { s with
      bt.csAsserted := t.bt.csAsserted, host.request := t.host.request, buffer := t.buffer,
      env := s.turn.env } ∧ (t.buffer = s.buffer ∨ t.buffer = []) := by
  unfold hostStep at h
  split at h
  · cases h; exact ⟨rfl, .inl rfl⟩
  · cases h; exact ⟨rfl, .inl rfl⟩
  · split at h
    · cases h; exact ⟨rfl, .inl rfl⟩
    · cases h
  · cases h; exact ⟨rfl, .inr rfl⟩

/-- Everything a step at `Idle` without a request can answer. -/
theorem idleStep_next {run : Instr → State → Host.Outcome State Fault Refusal} {s t : State}
    (hr : s.host.request = none) (h : idleStep run s = .next t) :
    (s.handlerDue = true ∧ t = s.expiryHandler) ∨ (s.handlerDue = false ∧ hostStep s.tick = .next t) := by
  simp only [idleStep, hr] at h
  split at h
  · next hd => cases h; exact .inl ⟨hd, rfl⟩
  · next hd => exact .inr ⟨by simpa using hd, h⟩

/-- Everything a step inside an operation can answer: an agent's step. -/
theorem progressStep_next {s t : State} (h : progressStep s = .next t) :
    t = busStep params s ∧ s.host.request = none ∧
    (s.handlerDue = true ∨ s.usesBus params = false ∨ s.bt.enabled = true) := by
  unfold progressStep at h
  cases hr : s.host.request <;> cases hd : s.handlerDue <;> cases hu : s.usesBus params <;>
    cases he : s.bt.enabled <;> simp [hr, hd, hu, he] at h <;> simp_all
  all_goals (first | exact h.symm | (split at h <;> simp_all))

end Sys2Proof.Machine
end

