-- ==== Sys2Proof/Laws/Steps.lean ====
section
/-! SUPPORT. What the pure computations and the step of each line leave unchanged and what they write,
field by field, so that no later proof unfolds a step. -/

namespace Sys2Proof.Machine

/-! ## The pure computations -/

/-- `t` is `s` with another place and other working registers: all a pure computation writes. -/
def State.SameButPlace (s t : State) : Prop :=
  t = { s with seq := t.seq, cmdSeq := t.cmdSeq, w := t.w }

/-- The positions whose line is a pure computation (R9). -/
def Pos.isPure : Pos → Bool
  | .framePrefixCheck _ => true
  | .initS2Check => true
  | .initS3Check => true
  | .initS4PrefixCheck => true
  | .initS4InitCheck => true
  | .initVersionCheck => true
  | .initS5Check => true
  | .initModeCheck => true
  | .initS6Check => true
  | .readCheck => true
  | .readStatusCheck => true
  | .readWaitCheck => true
  | _ => false

section Pure

variable (s : State) (c : Params)

theorem State.SameButPlace.trans {s t u : State} (h : s.SameButPlace t) (h' : t.SameButPlace u) :
    s.SameButPlace u := by
  rw [State.SameButPlace] at h h' ⊢; rw [h', h]

theorem State.sameButPlace_modeDecision : s.SameButPlace s.modeDecision := by
  unfold State.modeDecision; split <;> rfl

theorem State.sameButPlace_versionDecision : s.SameButPlace s.versionDecision := by
  unfold State.versionDecision; split
  · rfl
  · exact s.sameButPlace_modeDecision

theorem State.sameButPlace_negotiationDecision : s.SameButPlace s.negotiationDecision := by
  unfold State.negotiationDecision; split <;> rfl

theorem State.sameButPlace_probeDecision : s.SameButPlace (s.probeDecision c) := by
  unfold State.probeDecision; repeat' split
  all_goals rfl

theorem sameButPlace_initDecision : s.SameButPlace (initDecision c s) := by
  unfold initDecision
  split
  · split <;> rfl
  · exact s.sameButPlace_probeDecision c
  · split <;> rfl
  · exact s.sameButPlace_negotiationDecision
  · exact s.sameButPlace_versionDecision
  · split <;> rfl
  · exact s.sameButPlace_modeDecision
  · split <;> rfl
  · rfl

theorem sameButPlace_readDecision : s.SameButPlace (readDecision c s) := by
  unfold readDecision State.readCheck State.tokenDecision; repeat' split
  all_goals rfl

theorem sameButPlace_frameDecision : s.SameButPlace (frameDecision s) := by
  unfold frameDecision; repeat' split
  all_goals rfl

theorem sameButPlace_operationDecision : s.SameButPlace (operationDecision c s) := by
  unfold operationDecision
  split
  · exact sameButPlace_readDecision s c
  · exact sameButPlace_readDecision s c
  · exact sameButPlace_readDecision s c
  · exact sameButPlace_frameDecision s
  · exact sameButPlace_initDecision s c

theorem sameButPlace_commandDecision : s.SameButPlace (commandDecision c s) := by
  unfold commandDecision State.encodeFirst State.pollDecision State.payloadDecision; repeat' split
  all_goals rfl

/-- Everything the pure computations can do to the state (R9): they write the place and the working
registers, nothing else. -/
theorem State.sameButPlace_computed : s.SameButPlace (s.computed c) :=
  (sameButPlace_operationDecision s c).trans (sameButPlace_commandDecision _ c)

@[simp] theorem operationDecision_ds : (operationDecision c s).ds = s.ds := by
  rw [sameButPlace_operationDecision s c]
@[simp] theorem operationDecision_tg : (operationDecision c s).tg = s.tg := by
  rw [sameButPlace_operationDecision s c]
@[simp] theorem operationDecision_bt : (operationDecision c s).bt = s.bt := by
  rw [sameButPlace_operationDecision s c]
@[simp] theorem operationDecision_host : (operationDecision c s).host = s.host := by
  rw [sameButPlace_operationDecision s c]
@[simp] theorem operationDecision_buffer : (operationDecision c s).buffer = s.buffer := by
  rw [sameButPlace_operationDecision s c]
@[simp] theorem operationDecision_trace : (operationDecision c s).trace = s.trace := by
  rw [sameButPlace_operationDecision s c]
@[simp] theorem operationDecision_env : (operationDecision c s).env = s.env := by
  rw [sameButPlace_operationDecision s c]

@[simp] theorem State.computed_ds : (s.computed c).ds = s.ds := by
  rw [s.sameButPlace_computed c]
@[simp] theorem State.computed_tg : (s.computed c).tg = s.tg := by
  rw [s.sameButPlace_computed c]
@[simp] theorem State.computed_bt : (s.computed c).bt = s.bt := by
  rw [s.sameButPlace_computed c]
@[simp] theorem State.computed_host : (s.computed c).host = s.host := by
  rw [s.sameButPlace_computed c]
@[simp] theorem State.computed_buffer : (s.computed c).buffer = s.buffer := by
  rw [s.sameButPlace_computed c]
@[simp] theorem State.computed_trace : (s.computed c).trace = s.trace := by
  rw [s.sameButPlace_computed c]
@[simp] theorem State.computed_env : (s.computed c).env = s.env := by
  rw [s.sameButPlace_computed c]

/-- The computation inside a transaction leaves the operation's position. -/
@[simp] theorem commandDecision_seq : (commandDecision c s).seq = s.seq := by
  unfold commandDecision State.encodeFirst State.pollDecision State.payloadDecision; repeat' split
  all_goals rfl

/-- Which line's step is next is the operation's computation (R30). -/
theorem State.computed_seq : (s.computed c).seq = (operationDecision c s).seq := commandDecision_seq _ c

/-- The operation's computation leaves the place inside a transaction. -/
@[simp] theorem operationDecision_cmdSeq : (operationDecision c s).cmdSeq = s.cmdSeq := by
  unfold operationDecision initDecision readDecision frameDecision State.versionDecision
    State.modeDecision State.negotiationDecision State.probeDecision State.readCheck State.tokenDecision
  repeat' split
  all_goals rfl

/-- The operation's computation writes the registers `kind`, at a `raise`, and `address` (R202). -/
theorem operationDecision_w : (operationDecision c s).w =
    { s.w with kind := (operationDecision c s).w.kind, address := (operationDecision c s).w.address } := by
  unfold operationDecision initDecision readDecision frameDecision State.versionDecision
    State.modeDecision State.negotiationDecision State.probeDecision State.readCheck State.tokenDecision
  repeat' split
  all_goals rfl

/-- The computation inside a transaction writes `frame`, before the first byte. -/
theorem commandDecision_w : (commandDecision c s).w =
    { s.w with frame := (commandDecision c s).w.frame } := by
  unfold commandDecision State.encodeFirst State.pollDecision State.payloadDecision; repeat' split
  all_goals rfl

/-- The pure computations do not look at the environment (R9, R40). -/
theorem State.computed_withEnv (e : Env) :
    State.computed c { s with env := e } = { s.computed c with env := e } := by
  have ho : operationDecision c { s with env := e } = { operationDecision c s with env := e } := by
    simp only [operationDecision, initDecision, readDecision, frameDecision, State.versionDecision,
      State.modeDecision, State.negotiationDecision, State.probeDecision, State.readCheck,
      State.tokenDecision]
    repeat' split
    all_goals rfl
  rw [State.computed, ho]
  simp only [State.computed, commandDecision, State.encodeFirst, State.pollDecision,
    State.payloadDecision]
  repeat' split
  all_goals rfl

/-- The passing of a step for the guard moves the countdown only. -/
theorem State.computed_tick : s.tick.computed c = (s.computed c).tick := by
  have h : ∀ t : State, t.tick = { t with env := t.tick.env } := by
    intro t; unfold State.tick; split <;> rfl
  rw [h s, s.computed_withEnv c, h (s.computed c)]
  unfold State.tick
  rw [s.sameButPlace_computed c]
  split <;> rfl

/-- The working registers no pure computation writes. -/
theorem State.computed_w : (s.computed c).w =
    { s.w with
      frame := (s.computed c).w.frame
      kind := (s.computed c).w.kind
      address := (s.computed c).w.address } := by
  rw [State.computed, commandDecision_w, operationDecision_w]

@[simp] theorem State.computed_cmdIndex : (s.computed c).w.cmdIndex = s.w.cmdIndex := by
  rw [s.computed_w c]
@[simp] theorem State.computed_cmdArg : (s.computed c).w.cmdArg = s.w.cmdArg := by
  rw [s.computed_w c]
@[simp] theorem State.computed_cmdChk : (s.computed c).w.cmdChk = s.w.cmdChk := by
  rw [s.computed_w c]
@[simp] theorem State.computed_status : (s.computed c).w.status = s.w.status := by
  rw [s.computed_w c]
@[simp] theorem State.computed_payload : (s.computed c).w.payload = s.w.payload := by
  rw [s.computed_w c]
@[simp] theorem State.computed_payloadHeld : (s.computed c).w.payloadHeld = s.w.payloadHeld := by
  rw [s.computed_w c]
@[simp] theorem State.computed_pollCount : (s.computed c).w.pollCount = s.w.pollCount := by
  rw [s.computed_w c]
@[simp] theorem State.computed_byteCount : (s.computed c).w.byteCount = s.w.byteCount := by
  rw [s.computed_w c]
@[simp] theorem State.computed_cardVersion : (s.computed c).w.cardVersion = s.w.cardVersion := by
  rw [s.computed_w c]
@[simp] theorem State.computed_waitByte : (s.computed c).w.waitByte = s.w.waitByte := by
  rw [s.computed_w c]
@[simp] theorem State.computed_priorOuter : (s.computed c).w.priorOuter = s.w.priorOuter := by
  rw [s.computed_w c]
@[simp] theorem State.computed_priorInner : (s.computed c).w.priorInner = s.w.priorInner := by
  rw [s.computed_w c]

/-- At a line that is no pure computation the operation computes nothing. -/
theorem operationDecision_of_line (h : s.seq.isPure = false) : operationDecision c s = s := by
  unfold operationDecision
  cases hq : s.seq <;> simp [hq, Pos.isPure] at h <;> simp [initDecision, hq]

theorem State.computed_of_line (h : s.seq.isPure = false) : s.computed c = commandDecision c s := by
  rw [State.computed, operationDecision_of_line s c h]

/-- Outside a transaction no computation of one is made. -/
theorem commandDecision_of_select (h : s.cmdSeq = .select) : commandDecision c s = s := by
  simp [commandDecision, h]

/-- At a line that is no pure computation and outside a transaction nothing is computed. -/
theorem State.computed_self (h : s.seq.isPure = false) (hc : s.cmdSeq = .select) :
    s.computed c = s := by
  rw [s.computed_of_line c h, commandDecision_of_select s c hc]

/-- The places inside a transaction that are pure computations (R9). -/
def CmdPos.isPure : CmdPos → Bool
  | .polled => true
  | .statusTaken => true
  | _ => false

/-- The place inside a transaction once computed: another place only from a pure one. -/
theorem commandDecision_cmdSeq : (commandDecision c s).cmdSeq =
    match s.cmdSeq with
    | .polled =>
      if s.w.status = c.fill ∧ s.w.pollCount.toNat < c.responsePollLimit then .poll else .pollReturn
    | .statusTaken =>
      if s.w.kind.benign ∧ 0 < payloadLen c s.w.cmdIndex then .payload else .restore
    | q => q := by
  unfold commandDecision State.encodeFirst State.pollDecision State.payloadDecision
  cases h : s.cmdSeq <;> simp only <;> repeat' split
  all_goals first | rfl | simp_all

theorem commandDecision_isPure : (commandDecision c s).cmdSeq.isPure = false := by
  rw [commandDecision_cmdSeq]
  cases s.cmdSeq <;> simp only <;> repeat' split
  all_goals rfl

theorem State.computed_cmdSeq_isPure : (s.computed c).cmdSeq.isPure = false := commandDecision_isPure _ c

/-- A place is computed to `select` from there only. -/
theorem State.computed_cmdSeq_of_select (h : s.cmdSeq = .select) : (s.computed c).cmdSeq = .select := by
  rw [State.computed, commandDecision_cmdSeq, operationDecision_cmdSeq, h]

/-- Past the first byte's encoding and at no pure place, nothing is computed. -/
theorem commandDecision_self (hp : s.cmdSeq.isPure = false) (hs : s.cmdSeq ≠ .send) :
    commandDecision c s = s := by
  cases h : s.cmdSeq <;> simp_all [commandDecision, CmdPos.isPure]

/-- The computation inside a transaction is made once. -/
theorem commandDecision_idem : commandDecision c (commandDecision c s) = commandDecision c s := by
  by_cases h : s.cmdSeq = .send
  · have e : commandDecision c s = s.encodeFirst := by simp [commandDecision, h]
    rw [e]
    unfold State.encodeFirst
    split
    · next h0 => simp [commandDecision, h, State.encodeFirst, h0]
    · next h0 => simp [commandDecision, h, State.encodeFirst, h0]
  · refine commandDecision_self _ c (commandDecision_isPure s c) ?_
    rw [commandDecision_cmdSeq]
    cases hq : s.cmdSeq <;> simp only <;> repeat' split
    all_goals simp_all

/-- Where the operation's computation can go from each pure line. -/
def Pos.decisions : Pos → List Pos
  | .framePrefixCheck hcs => [.frameInit hcs, .frameReturn]
  | .initS2Check => [.initS3Probe, .initFail]
  | .initS3Check => [.initS3V2, .initS3V1, .initFail]
  | .initS4PrefixCheck => [.initS4Init, .initAbort]
  | .initS4InitCheck => [.initS4Disarm, .initS4Test, .initAbort]
  | .initVersionCheck => [.initS5Ocr, .initS6Blocklen, .initS7Speed]
  | .initS5Check => [.initS5Mode, .initFail]
  | .initModeCheck => [.initS6Blocklen, .initS7Speed]
  | .initS6Check => [.initS7Speed, .initFail]
  | .readCheck => [.readSelect, .readFail]
  | .readStatusCheck => [.readArm, .readAbortRestore]
  | .readWaitCheck => [.readWaitDisarm, .readWaitTest]
  | p => [p]

theorem State.computed_seq_mem : (s.computed c).seq ∈ s.seq.decisions := by
  rw [State.computed_seq]
  cases hp : s.seq.isPure with
  | false =>
    rw [operationDecision_of_line s c hp]
    cases hq : s.seq <;> simp [hq, Pos.isPure] at hp <;> simp [Pos.decisions]
  | true =>
    cases hq : s.seq <;> simp [hq, Pos.isPure] at hp <;>
      simp only [operationDecision, initDecision, readDecision, frameDecision, hq, Pos.decisions,
        State.versionDecision, State.modeDecision, State.negotiationDecision, State.probeDecision,
        State.readCheck, State.tokenDecision] <;>
      repeat' split
    all_goals simp [hq, Pos.abort]

/-- What is computed stands at a line that is no pure computation. -/
theorem State.computed_isPure : (s.computed c).seq.isPure = false := by
  have h := s.computed_seq_mem c
  cases hq : s.seq <;> rw [hq] at h <;> simp only [Pos.decisions, List.mem_cons, List.not_mem_nil,
    or_false] at h <;> (try rcases h with h | h | h) <;> (try rcases h with h | h) <;> rw [h] <;> rfl

end Pure

/-! ## The steps of the lines -/

namespace State

variable (s : State) (c : Params)

section Initialize

variable (n : Nat) (p : Pos)

@[simp] theorem clockFill_ds : (s.clockFill c n p).ds = s.ds := by
  unfold clockFill; split <;> rfl
@[simp] theorem clockFill_tg : (s.clockFill c n p).tg = s.tg := by
  unfold clockFill; split <;> rfl
@[simp] theorem clockFill_bt : (s.clockFill c n p).bt = s.bt := by
  unfold clockFill; split <;> rfl
@[simp] theorem clockFill_seq : (s.clockFill c n p).seq =
    if s.w.byteCount.toNat + 1 < n then s.seq else p := by unfold clockFill; split <;> rfl
@[simp] theorem clockFill_cmdSeq : (s.clockFill c n p).cmdSeq = s.cmdSeq := by
  unfold clockFill; split <;> rfl
@[simp] theorem clockFill_w : (s.clockFill c n p).w =
    { s.w with byteCount := if s.w.byteCount.toNat + 1 < n then s.w.byteCount + 1#10 else 0#10 } := by
  unfold clockFill; split <;> rfl
@[simp] theorem clockFill_host : (s.clockFill c n p).host = s.host := by
  unfold clockFill; split <;> rfl
@[simp] theorem clockFill_buffer : (s.clockFill c n p).buffer = s.buffer := by
  unfold clockFill; split <;> rfl
@[simp] theorem clockFill_trace : (s.clockFill c n p).trace =
    (s.xfer c.fill).trace := by unfold clockFill; split <;> rfl
@[simp] theorem clockFill_env : (s.clockFill c n p).env =
    (s.xfer c.fill).env := by unfold clockFill; split <;> rfl

/-- The test of negotiation, read from the guard (R175). -/
theorem negotiationTest_eq : s.negotiationTest =
    if s.tg.expired = true then s.raise .timeout else { s with seq := .initS4Prefix } := rfl

@[simp] theorem negotiationTest_ds : (s.negotiationTest).ds = s.ds := by
  rw [negotiationTest_eq]; split <;> rfl
@[simp] theorem negotiationTest_tg : (s.negotiationTest).tg = s.tg := by
  rw [negotiationTest_eq]; split <;> rfl
@[simp] theorem negotiationTest_bt : (s.negotiationTest).bt = s.bt := by
  rw [negotiationTest_eq]; split <;> rfl
@[simp] theorem negotiationTest_cmdSeq : (s.negotiationTest).cmdSeq = s.cmdSeq := by
  rw [negotiationTest_eq]; split <;> rfl
@[simp] theorem negotiationTest_host : (s.negotiationTest).host = s.host := by
  rw [negotiationTest_eq]; split <;> rfl
@[simp] theorem negotiationTest_buffer : (s.negotiationTest).buffer = s.buffer := by
  rw [negotiationTest_eq]; split <;> rfl
@[simp] theorem negotiationTest_trace : (s.negotiationTest).trace = s.trace := by
  rw [negotiationTest_eq]; split <;> rfl
@[simp] theorem negotiationTest_env : (s.negotiationTest).env = s.env := by
  rw [negotiationTest_eq]; split <;> rfl

end Initialize

section Reader

/-- The test of the wait for the start token, read from the guard (R204). -/
theorem waitTest_eq : s.waitTest =
    if s.tg.expired = true then s.raise .timeout else { s with seq := .readWaitXfer } := rfl

@[simp] theorem waitTest_ds : (s.waitTest).ds = s.ds := by
  rw [waitTest_eq]; split <;> rfl
@[simp] theorem waitTest_tg : (s.waitTest).tg = s.tg := by
  rw [waitTest_eq]; split <;> rfl
@[simp] theorem waitTest_bt : (s.waitTest).bt = s.bt := by
  rw [waitTest_eq]; split <;> rfl
@[simp] theorem waitTest_cmdSeq : (s.waitTest).cmdSeq = s.cmdSeq := by
  rw [waitTest_eq]; split <;> rfl
@[simp] theorem waitTest_host : (s.waitTest).host = s.host := by
  rw [waitTest_eq]; split <;> rfl
@[simp] theorem waitTest_buffer : (s.waitTest).buffer = s.buffer := by
  rw [waitTest_eq]; split <;> rfl
@[simp] theorem waitTest_trace : (s.waitTest).trace = s.trace := by
  rw [waitTest_eq]; split <;> rfl
@[simp] theorem waitTest_env : (s.waitTest).env = s.env := by
  rw [waitTest_eq]; split <;> rfl

@[simp] theorem waitXfer_ds : (s.waitXfer c).ds = s.ds := rfl
@[simp] theorem waitXfer_tg : (s.waitXfer c).tg = s.tg := rfl
@[simp] theorem waitXfer_bt : (s.waitXfer c).bt = s.bt := rfl
@[simp] theorem waitXfer_cmdSeq : (s.waitXfer c).cmdSeq = s.cmdSeq := rfl
@[simp] theorem waitXfer_seq : (s.waitXfer c).seq = .readWaitCheck := rfl
@[simp] theorem waitXfer_w : (s.waitXfer c).w = { s.w with waitByte := s.cardByte } := rfl
@[simp] theorem waitXfer_host : (s.waitXfer c).host = s.host := rfl
@[simp] theorem waitXfer_buffer : (s.waitXfer c).buffer = s.buffer := rfl
@[simp] theorem waitXfer_trace : (s.waitXfer c).trace =
    (s.xfer c.fill).trace := rfl
@[simp] theorem waitXfer_env : (s.waitXfer c).env =
    (s.xfer c.fill).env := rfl

@[simp] theorem dataXfer_ds : (s.dataXfer c).ds = s.ds := by
  unfold dataXfer; simp only; split <;> simp
@[simp] theorem dataXfer_tg : (s.dataXfer c).tg = s.tg := by
  unfold dataXfer; simp only; split <;> simp
@[simp] theorem dataXfer_bt : (s.dataXfer c).bt = s.bt := by
  unfold dataXfer; simp only; split <;> simp
@[simp] theorem dataXfer_seq : (s.dataXfer c).seq =
    if s.w.byteCount.toNat + 1 < c.sectorLen then s.seq else .readTrailer := by
  unfold dataXfer; simp only; split <;> simp
@[simp] theorem dataXfer_cmdSeq : (s.dataXfer c).cmdSeq = s.cmdSeq := by
  unfold dataXfer; simp only; split <;> simp
@[simp] theorem dataXfer_w : (s.dataXfer c).w =
    { s.w with byteCount := if s.w.byteCount.toNat + 1 < c.sectorLen then s.w.byteCount + 1#10 else 0#10 } := by
  unfold dataXfer; simp only; split <;> simp
@[simp] theorem dataXfer_host : (s.dataXfer c).host = s.host := by
  unfold dataXfer; simp only; split <;> simp
@[simp] theorem dataXfer_buffer : (s.dataXfer c).buffer =
    (s.memWrite s.w.byteCount.toNat s.cardByte).buffer := by
  unfold dataXfer; simp only; split <;> simp [memWrite_buffer_eq]
@[simp] theorem dataXfer_trace : (s.dataXfer c).trace =
    (s.xfer c.fill).trace := by unfold dataXfer; simp only; split <;> simp
@[simp] theorem dataXfer_env : (s.dataXfer c).env =
    (s.xfer c.fill).env := by unfold dataXfer; simp only; split <;> simp

end Reader

section Transaction

variable (k : Command)

@[simp] theorem cmdSelect_ds : (s.cmdSelect k).ds = s.ds := rfl
@[simp] theorem cmdSelect_tg : (s.cmdSelect k).tg = s.tg := rfl
@[simp] theorem cmdSelect_bt : (s.cmdSelect k).bt = s.selectInner.bt := rfl
@[simp] theorem cmdSelect_seq : (s.cmdSelect k).seq = s.seq := rfl
@[simp] theorem cmdSelect_cmdSeq : (s.cmdSelect k).cmdSeq = .send := rfl
@[simp] theorem cmdSelect_host : (s.cmdSelect k).host = s.host := rfl
@[simp] theorem cmdSelect_buffer : (s.cmdSelect k).buffer = s.buffer := rfl
@[simp] theorem cmdSelect_trace : (s.cmdSelect k).trace = s.trace := rfl
@[simp] theorem cmdSelect_env : (s.cmdSelect k).env = s.env := rfl

@[simp] theorem cmdSend_ds : (s.cmdSend c).ds = s.ds := by
  unfold cmdSend; split <;> rfl
@[simp] theorem cmdSend_tg : (s.cmdSend c).tg = s.tg := by
  unfold cmdSend; split <;> rfl
@[simp] theorem cmdSend_bt : (s.cmdSend c).bt = s.bt := by
  unfold cmdSend; split <;> rfl
@[simp] theorem cmdSend_seq : (s.cmdSend c).seq = s.seq := by
  unfold cmdSend; split <;> rfl
@[simp] theorem cmdSend_cmdSeq : (s.cmdSend c).cmdSeq =
    if s.w.byteCount.toNat + 1 < c.frameLen then s.cmdSeq else .poll := by
  unfold cmdSend; split <;> rfl
@[simp] theorem cmdSend_w : (s.cmdSend c).w =
    { s.w with byteCount := if s.w.byteCount.toNat + 1 < c.frameLen then s.w.byteCount + 1#10 else 0#10 } := by
  unfold cmdSend; split <;> rfl
@[simp] theorem cmdSend_host : (s.cmdSend c).host = s.host := by
  unfold cmdSend; split <;> rfl
@[simp] theorem cmdSend_buffer : (s.cmdSend c).buffer = s.buffer := by
  unfold cmdSend; split <;> rfl
@[simp] theorem cmdSend_trace : (s.cmdSend c).trace =
    (s.xfer (frameByte s.w.frame s.w.byteCount.toNat)).trace := by unfold cmdSend; split <;> rfl
@[simp] theorem cmdSend_env : (s.cmdSend c).env =
    (s.xfer (frameByte s.w.frame s.w.byteCount.toNat)).env := by unfold cmdSend; split <;> rfl

@[simp] theorem cmdPoll_ds : (s.cmdPoll c).ds = s.ds := rfl
@[simp] theorem cmdPoll_tg : (s.cmdPoll c).tg = s.tg := rfl
@[simp] theorem cmdPoll_bt : (s.cmdPoll c).bt = s.bt := rfl
@[simp] theorem cmdPoll_seq : (s.cmdPoll c).seq = s.seq := rfl
@[simp] theorem cmdPoll_cmdSeq : (s.cmdPoll c).cmdSeq = .polled := rfl
@[simp] theorem cmdPoll_w : (s.cmdPoll c).w =
    { s.w with status := s.cardByte, pollCount := s.w.pollCount + 1#4 } := rfl
@[simp] theorem cmdPoll_host : (s.cmdPoll c).host = s.host := rfl
@[simp] theorem cmdPoll_buffer : (s.cmdPoll c).buffer = s.buffer := rfl
@[simp] theorem cmdPoll_trace : (s.cmdPoll c).trace = (s.xfer c.fill).trace := rfl
@[simp] theorem cmdPoll_env : (s.cmdPoll c).env = (s.xfer c.fill).env := rfl

@[simp] theorem cmdPayload_ds : (s.cmdPayload c).ds = s.ds := by
  unfold cmdPayload; simp only; split <;> rfl
@[simp] theorem cmdPayload_tg : (s.cmdPayload c).tg = s.tg := by
  unfold cmdPayload; simp only; split <;> rfl
@[simp] theorem cmdPayload_bt : (s.cmdPayload c).bt = s.bt := by
  unfold cmdPayload; simp only; split <;> rfl
@[simp] theorem cmdPayload_seq : (s.cmdPayload c).seq = s.seq := by
  unfold cmdPayload; simp only; split <;> rfl
@[simp] theorem cmdPayload_cmdSeq : (s.cmdPayload c).cmdSeq =
    if s.w.byteCount.toNat + 1 < c.payloadBytes then s.cmdSeq else .payloadReturn := by
  unfold cmdPayload; simp only; split <;> rfl
@[simp] theorem cmdPayload_host : (s.cmdPayload c).host = s.host := by
  unfold cmdPayload; simp only; split <;> rfl
@[simp] theorem cmdPayload_buffer : (s.cmdPayload c).buffer = s.buffer := by
  unfold cmdPayload; simp only; split <;> rfl
@[simp] theorem cmdPayload_trace : (s.cmdPayload c).trace =
    (s.xfer c.fill).trace := by unfold cmdPayload; simp only; split <;> rfl
@[simp] theorem cmdPayload_env : (s.cmdPayload c).env =
    (s.xfer c.fill).env := by unfold cmdPayload; simp only; split <;> rfl

/-- The working registers after a payload byte (R123, R55). -/
theorem cmdPayload_w : (s.cmdPayload c).w =
    let p := s.w.payload ||| payloadPlace c.payloadWireOrder s.w.byteCount.toNat s.cardByte
    if s.w.byteCount.toNat + 1 < c.payloadBytes then
      { s.w with payload := p, byteCount := s.w.byteCount + 1#10 }
    else { s.w with payload := p } := by
  unfold cmdPayload; simp only; split <;> rfl

@[simp] theorem cmdRestore_ds : s.cmdRestore.ds = s.ds := rfl
@[simp] theorem cmdRestore_tg : s.cmdRestore.tg = s.tg := rfl
@[simp] theorem cmdRestore_bt : s.cmdRestore.bt = s.restoreInner.bt := rfl
@[simp] theorem cmdRestore_seq : s.cmdRestore.seq = s.seq := rfl
@[simp] theorem cmdRestore_cmdSeq : s.cmdRestore.cmdSeq = .callReturn := rfl
@[simp] theorem cmdRestore_w : s.cmdRestore.w = s.w := rfl
@[simp] theorem cmdRestore_host : s.cmdRestore.host = s.host := rfl
@[simp] theorem cmdRestore_buffer : s.cmdRestore.buffer = s.buffer := rfl
@[simp] theorem cmdRestore_trace : s.cmdRestore.trace = s.trace := rfl
@[simp] theorem cmdRestore_env : s.cmdRestore.env = s.env := rfl

@[simp] theorem cmdPollReturn_ds : s.cmdPollReturn.ds = s.ds := rfl
@[simp] theorem cmdPollReturn_tg : s.cmdPollReturn.tg = s.tg := rfl
@[simp] theorem cmdPollReturn_bt : s.cmdPollReturn.bt = s.bt := rfl
@[simp] theorem cmdPollReturn_seq : s.cmdPollReturn.seq = s.seq := rfl
@[simp] theorem cmdPollReturn_cmdSeq : s.cmdPollReturn.cmdSeq = .statusReturn := rfl
@[simp] theorem cmdPollReturn_w : s.cmdPollReturn.w = s.w := rfl
@[simp] theorem cmdPollReturn_host : s.cmdPollReturn.host = s.host := rfl
@[simp] theorem cmdPollReturn_buffer : s.cmdPollReturn.buffer = s.buffer := rfl
@[simp] theorem cmdPollReturn_trace : s.cmdPollReturn.trace = s.trace := rfl
@[simp] theorem cmdPollReturn_env : s.cmdPollReturn.env = s.env := rfl

@[simp] theorem cmdStatusReturn_ds : (s.cmdStatusReturn c).ds = s.ds := rfl
@[simp] theorem cmdStatusReturn_tg : (s.cmdStatusReturn c).tg = s.tg := rfl
@[simp] theorem cmdStatusReturn_bt : (s.cmdStatusReturn c).bt = s.bt := rfl
@[simp] theorem cmdStatusReturn_seq : (s.cmdStatusReturn c).seq = s.seq := rfl
@[simp] theorem cmdStatusReturn_cmdSeq : (s.cmdStatusReturn c).cmdSeq = .statusTaken := rfl
@[simp] theorem cmdStatusReturn_w : (s.cmdStatusReturn c).w = 
    { s.w with kind := if s.w.status = c.fill then .noResponse else decodeStatus s.w.status } := rfl
@[simp] theorem cmdStatusReturn_host : (s.cmdStatusReturn c).host = s.host := rfl
@[simp] theorem cmdStatusReturn_buffer : (s.cmdStatusReturn c).buffer = s.buffer := rfl
@[simp] theorem cmdStatusReturn_trace : (s.cmdStatusReturn c).trace = s.trace := rfl
@[simp] theorem cmdStatusReturn_env : (s.cmdStatusReturn c).env = s.env := rfl

@[simp] theorem cmdPayloadReturn_ds : s.cmdPayloadReturn.ds = s.ds := rfl
@[simp] theorem cmdPayloadReturn_tg : s.cmdPayloadReturn.tg = s.tg := rfl
@[simp] theorem cmdPayloadReturn_bt : s.cmdPayloadReturn.bt = s.bt := rfl
@[simp] theorem cmdPayloadReturn_seq : s.cmdPayloadReturn.seq = s.seq := rfl
@[simp] theorem cmdPayloadReturn_cmdSeq : s.cmdPayloadReturn.cmdSeq = .restore := rfl
@[simp] theorem cmdPayloadReturn_w : s.cmdPayloadReturn.w = { s.w with payloadHeld := true } := rfl
@[simp] theorem cmdPayloadReturn_host : s.cmdPayloadReturn.host = s.host := rfl
@[simp] theorem cmdPayloadReturn_buffer : s.cmdPayloadReturn.buffer = s.buffer := rfl
@[simp] theorem cmdPayloadReturn_trace : s.cmdPayloadReturn.trace = s.trace := rfl
@[simp] theorem cmdPayloadReturn_env : s.cmdPayloadReturn.env = s.env := rfl

@[simp] theorem cmdReturn_ds : s.cmdReturn.ds = s.ds := rfl
@[simp] theorem cmdReturn_tg : s.cmdReturn.tg = s.tg := rfl
@[simp] theorem cmdReturn_bt : s.cmdReturn.bt = s.bt := rfl
@[simp] theorem cmdReturn_seq : s.cmdReturn.seq = s.seq.afterCall := rfl
@[simp] theorem cmdReturn_cmdSeq : s.cmdReturn.cmdSeq = .select := rfl
@[simp] theorem cmdReturn_w : s.cmdReturn.w = s.w.afterTransaction := rfl
@[simp] theorem cmdReturn_host : s.cmdReturn.host = s.host := rfl
@[simp] theorem cmdReturn_buffer : s.cmdReturn.buffer = s.buffer := rfl
@[simp] theorem cmdReturn_trace : s.cmdReturn.trace = s.trace := rfl
@[simp] theorem cmdReturn_env : s.cmdReturn.env = s.env := rfl

end Transaction

end State

section Transaction

variable (s : State) (c : Params) (k : Command)

@[simp] theorem transactionStep_ds : (transactionStep c k s).ds = s.ds := by
  unfold transactionStep; split <;> simp
@[simp] theorem transactionStep_tg : (transactionStep c k s).tg = s.tg := by
  unfold transactionStep; split <;> simp
/-- A transaction moves the position at its return only. -/
theorem transactionStep_seq : (transactionStep c k s).seq =
    if s.cmdSeq = .callReturn then s.seq.afterCall else s.seq := by
  unfold transactionStep; split <;> simp_all
@[simp] theorem transactionStep_host : (transactionStep c k s).host = s.host := by
  unfold transactionStep; split <;> simp
@[simp] theorem transactionStep_buffer : (transactionStep c k s).buffer = s.buffer := by
  unfold transactionStep; split <;> simp

/-- A transaction moves the line by its `Select` and its `Restore` (R140, R141). -/
theorem transactionStep_bt : (transactionStep c k s).bt =
    match s.cmdSeq with
    | .select => { s.bt with csAsserted := true }
    | .restore => { s.bt with csAsserted := s.w.priorInner }
    | _ => s.bt := by
  unfold transactionStep; split <;> simp_all

end Transaction

end Sys2Proof.Machine
end

