-- ==== Sys2Proof/Laws/Sequencer.lean ====
section
/-! SUPPORT. Said once of every step of the sequencer: where each line can go, and what each line does to
the guard, the transport, the driver's state, the buffer and the host's port. -/

namespace Sys2Proof.Machine

variable (s : State) (c : Params)

/-! ## Lines -/

/-- The positions the step of a line can go to, itself among them where it counts or waits (R30). -/
def Pos.successors : Pos → List Pos
  | .frameCommand k => [.frameCommand k, .frameReturn]
  | .framePrefix hcs => [.framePrefix hcs, .framePrefixCheck hcs]
  | .frameInit hcs => [.frameInit hcs, .frameReturn]
  | .frameReturn => [.idle]
  | .initEntryClear => [.initEntryEnable]
  | .initEntryEnable => [.initEntryDivider]
  | .initEntryDivider => [.initS1High]
  | .initS1High => [.initS1High, .initS1Select]
  | .initS1Select => [.initS1Low]
  | .initS1Low => [.initS1Low, .initS1Restore]
  | .initS1Restore => [.initS2Reset]
  | .initS2Reset => [.initS2Reset, .initS2Check]
  | .initS3Probe => [.initS3Probe, .initS3Check]
  | .initS3V2 => [.initS4Arm]
  | .initS3V1 => [.initS3Byte]
  | .initS3Byte => [.initS4Arm]
  | .initS4Arm => [.initS4Test]
  | .initS4Test => [.initS4Prefix, .initAbort]
  | .initS4Prefix => [.initS4Prefix, .initS4PrefixCheck]
  | .initS4Init => [.initS4Init, .initS4InitCheck]
  | .initS4Disarm => [.initVersionCheck]
  | .initS5Ocr => [.initS5Ocr, .initS5Check]
  | .initS5Mode => [.initModeCheck]
  | .initS6Blocklen => [.initS6Blocklen, .initS6Check]
  | .initS7Speed => [.initDone]
  | .initDone => [.initReturn]
  | .initReturn => [.idle]
  | .initAbort => [.initFail]
  | .initFail => [.idle]
  | .readSelect => [.readCommand]
  | .readCommand => [.readCommand, .readStatusCheck]
  | .readArm => [.readWaitTest]
  | .readWaitTest => [.readWaitXfer, .readAbortDisarm]
  | .readWaitXfer => [.readWaitCheck]
  | .readWaitDisarm => [.readData]
  | .readData => [.readData, .readTrailer]
  | .readTrailer => [.readTrailer, .readRelease]
  | .readRelease => [.readReturn]
  | .readReturn => [.idle]
  | .readAbortDisarm => [.readAbortRestore]
  | .readAbortRestore => [.readFail]
  | .readFail => [.idle]
  | .readyCommand => [.readyCommand, .readyReport]
  | .readyReport => [.idle]
  | .shutDisable => [.shutReturn]
  | .shutReturn => [.idle]
  | p => [p]

/-- A position is a call of `Command` whatever the working registers hold. -/
theorem callOf_isSome : (s.callOf c).isSome = s.seq.isCall := by
  cases hq : s.seq <;> simp [State.callOf, Pos.isCall, hq]

/-- At a call of `Command` there is a command to send. -/
theorem callOf_of_isCall {s : State} (h : s.seq.isCall = true) : ∃ k, s.callOf c = some k :=
  Option.isSome_iff_exists.1 ((callOf_isSome s c).trans h)

theorem isCall_of_callOf {k : Command} {s : State} (h : s.callOf c = some k) :
    s.seq.isCall = true := by
  rw [← callOf_isSome s c, h]; rfl

theorem callOf_of_not_isCall {s : State} (h : s.seq.isCall = false) : s.callOf c = none := by
  rw [← Option.isNone_iff_eq_none, ← Option.not_isSome, callOf_isSome, h]; rfl

/-- At a call of `Command` the line's step is the transaction's. -/
theorem lineStep_of_call {k : Command} (h : s.callOf c = some k) :
    lineStep c s = transactionStep c k s := by
  simp [lineStep, h]

theorem resting_of_isCall {p : Pos} (h : p.isCall = true) : p.resting = false := by
  cases p <;> simp [Pos.isCall] at h <;> rfl

theorem isPure_of_isCall {p : Pos} (h : p.isCall = true) : p.isPure = false := by
  cases p <;> simp [Pos.isCall] at h <;> rfl

theorem isPure_of_resting {p : Pos} (h : p.resting = true) : p.isPure = false := by
  cases p <;> simp [Pos.resting] at h <;> rfl

/-- Everything the step of a line can go to. -/
theorem lineStep_seq_mem : (lineStep c s).seq ∈ s.seq.successors := by
  cases hk : s.callOf c with
  | some k =>
    rw [lineStep_of_call s c hk, transactionStep_seq]
    cases hq : s.seq <;> simp [State.callOf, hq] at hk <;> split <;>
      simp [Pos.successors, Pos.afterCall]
  | none =>
    cases hq : s.seq <;> simp [State.callOf, hq] at hk <;>
      simp [lineStep, State.callOf, hq, Pos.successors, frameStep, initStep, readStep, queryStep,
        State.negotiationTest_eq, State.waitTest_eq, State.waitXfer_seq] <;>
      (repeat' split) <;> simp_all [Pos.abort] <;> omega

/-- What the step of each line does to the guard (R25, R152, R153). -/
theorem lineStep_tg : (lineStep c s).tg =
    match s.seq with
    | .initS4Arm => ⟨false, true⟩
    | .readArm => ⟨false, true⟩
    | .initS4Disarm => ⟨s.tg.expired, false⟩
    | .initAbort => ⟨s.tg.expired, false⟩
    | .readWaitDisarm => ⟨s.tg.expired, false⟩
    | .readAbortDisarm => ⟨s.tg.expired, false⟩
    | _ => s.tg := by
  cases hq : s.seq <;>
    simp [lineStep, State.callOf, hq, frameStep, initStep, readStep, queryStep]

/-- What the step of each line does to `DriverState` (R21, R22). -/
theorem lineStep_ds : (lineStep c s).ds =
    match s.seq with
    | .initEntryClear => { s.ds with initialized := false }
    | .initS3Byte => { s.ds with addressingMode := .byte }
    | .initS5Mode => { s.ds with addressingMode := ocrMode c s.w.payload }
    | .initDone => { s.ds with initialized := true }
    | _ => s.ds := by
  cases hq : s.seq <;>
    simp [lineStep, State.callOf, hq, frameStep, initStep, readStep, queryStep]

/-- What the step of each line does to the transport (R27 to R29). -/
theorem lineStep_bt : (lineStep c s).bt =
    match s.seq with
    | .initEntryEnable => { s.bt with enabled := true }
    | .initEntryDivider => { s.bt with divider := .slow }
    | .initS1Select => { s.bt with csAsserted := true }
    | .initS1Restore => { s.bt with csAsserted := s.w.priorOuter }
    | .initS7Speed => { s.bt with divider := .fast }
    | .readSelect => { s.bt with csAsserted := true }
    | .readRelease => { s.bt with csAsserted := s.w.priorOuter }
    | .readAbortRestore => { s.bt with csAsserted := s.w.priorOuter }
    | .shutDisable => { s.bt with enabled := false }
    | p =>
      if p.isCall then
        match s.cmdSeq with
        | .select => { s.bt with csAsserted := true }
        | .restore => { s.bt with csAsserted := s.w.priorInner }
        | _ => s.bt
      else s.bt := by
  cases hq : s.seq <;>
    simp [lineStep, State.callOf, hq, frameStep, initStep, readStep, queryStep, Pos.isCall,
      transactionStep_bt]
  all_goals cases s.cmdSeq <;> rfl

/-- Only the data phase writes the buffer (R52, R205). -/
theorem lineStep_buffer : (lineStep c s).buffer =
    if s.seq = .readData then (s.memWrite s.w.byteCount.toNat s.cardByte).buffer else s.buffer := by
  cases hq : s.seq <;>
    simp [lineStep, State.callOf, hq, frameStep, initStep, readStep, queryStep]

/-- No step of the sequencer takes or leaves a request or a block number (R33). -/
theorem lineStep_host : (lineStep c s).host =
    match s.seq with
    | .initReturn => { s.host with result := .ok }
    | .initFail => { s.host with result := .err s.w.kind }
    | .readReturn => { s.host with result := .ok }
    | .readFail => { s.host with result := .err s.w.kind }
    | .readyReport => { s.host with result := .ready (s.readiness c) }
    | .shutReturn => { s.host with result := .none }
    | _ => s.host := by
  cases hq : s.seq <;>
    simp [lineStep, State.callOf, hq, frameStep, initStep, readStep, queryStep]

/-- Outside a call of `Command` the place inside a transaction is kept, or reset by the return to the
host. -/
theorem lineStep_cmdSeq (h : s.seq.isCall = false) :
    (lineStep c s).cmdSeq = s.cmdSeq ∨ (lineStep c s).cmdSeq = .select := by
  cases hq : s.seq <;> simp [hq, Pos.isCall] at h <;>
    simp [lineStep, State.callOf, hq, frameStep, initStep, readStep, queryStep]

/-! ## Steps -/

/-- A step of the sequencer is the pure computations and the step of the line they lead to (R9). -/
theorem sequencerStep_eq {s : State} (h : s.seq.resting = false) :
    sequencerStep c s = lineStep c (s.computed c) := by
  simp [sequencerStep, h]

theorem sequencerStep_resting {s : State} (h : s.seq.resting = true) : sequencerStep c s = s := by
  simp [sequencerStep, h]

/-- A resting position is computed to itself. -/
theorem computed_seq_of_resting {s : State} (h : s.seq.resting = true) :
    (s.computed c).seq = s.seq := by
  rw [State.computed_seq, operationDecision_of_line s c (isPure_of_resting h)]

/-- Everything a step can go to: what the line computed goes to. -/
theorem sequencerStep_seq_mem : (sequencerStep c s).seq ∈ (s.computed c).seq.successors := by
  cases h : s.seq.resting with
  | false => rw [sequencerStep_eq c h]; exact lineStep_seq_mem _ c
  | true =>
    rw [sequencerStep_resting c h, computed_seq_of_resting c h]
    cases hq : s.seq <;> simp [hq, Pos.resting] at h <;> simp [Pos.successors]

/-- What a step does to the guard, by the line computed. -/
theorem sequencerStep_tg : (sequencerStep c s).tg =
    match (s.computed c).seq with
    | .initS4Arm => ⟨false, true⟩
    | .readArm => ⟨false, true⟩
    | .initS4Disarm => ⟨s.tg.expired, false⟩
    | .initAbort => ⟨s.tg.expired, false⟩
    | .readWaitDisarm => ⟨s.tg.expired, false⟩
    | .readAbortDisarm => ⟨s.tg.expired, false⟩
    | _ => s.tg := by
  cases h : s.seq.resting with
  | false => rw [sequencerStep_eq c h, lineStep_tg]; simp
  | true =>
    rw [sequencerStep_resting c h, computed_seq_of_resting c h]
    cases hq : s.seq <;> simp [hq, Pos.resting] at h <;> rfl

/-- What a step does to `DriverState`, by the line computed. -/
theorem sequencerStep_ds : (sequencerStep c s).ds =
    match (s.computed c).seq with
    | .initEntryClear => { s.ds with initialized := false }
    | .initS3Byte => { s.ds with addressingMode := .byte }
    | .initS5Mode => { s.ds with addressingMode := ocrMode c s.w.payload }
    | .initDone => { s.ds with initialized := true }
    | _ => s.ds := by
  cases h : s.seq.resting with
  | false => rw [sequencerStep_eq c h, lineStep_ds]; simp
  | true =>
    rw [sequencerStep_resting c h, computed_seq_of_resting c h]
    cases hq : s.seq <;> simp [hq, Pos.resting] at h <;> rfl

/-- What a step does to the transport, by the line computed. -/
theorem sequencerStep_bt : (sequencerStep c s).bt =
    match (s.computed c).seq with
    | .initEntryEnable => { s.bt with enabled := true }
    | .initEntryDivider => { s.bt with divider := .slow }
    | .initS1Select => { s.bt with csAsserted := true }
    | .initS1Restore => { s.bt with csAsserted := s.w.priorOuter }
    | .initS7Speed => { s.bt with divider := .fast }
    | .readSelect => { s.bt with csAsserted := true }
    | .readRelease => { s.bt with csAsserted := s.w.priorOuter }
    | .readAbortRestore => { s.bt with csAsserted := s.w.priorOuter }
    | .shutDisable => { s.bt with enabled := false }
    | p =>
      if p.isCall then
        match (s.computed c).cmdSeq with
        | .select => { s.bt with csAsserted := true }
        | .restore => { s.bt with csAsserted := s.w.priorInner }
        | _ => s.bt
      else s.bt := by
  cases h : s.seq.resting with
  | false => rw [sequencerStep_eq c h, lineStep_bt]; simp
  | true =>
    rw [sequencerStep_resting c h, computed_seq_of_resting c h]
    cases hq : s.seq <;> simp [hq, Pos.resting] at h <;> rfl

/-- What a step does to the buffer: the data phase's line is computed from itself only. -/
theorem sequencerStep_buffer : (sequencerStep c s).buffer =
    if s.seq = .readData then (s.memWrite s.w.byteCount.toNat s.cardByte).buffer else s.buffer := by
  have hd : (s.computed c).seq = .readData ↔ s.seq = .readData := by
    have hm := s.computed_seq_mem c
    constructor <;> intro h
    · rw [h] at hm
      cases hq : s.seq <;> simp [hq, Pos.decisions] at hm
      rfl
    · simpa [h, Pos.decisions] using hm
  cases h : s.seq.resting with
  | false =>
    rw [sequencerStep_eq c h, lineStep_buffer]
    simp [hd, State.memWrite_buffer_eq, State.cardByte]
  | true =>
    rw [sequencerStep_resting c h]
    cases hq : s.seq <;> simp [hq, Pos.resting] at h <;> rfl

/-- No step of the sequencer takes or leaves a request (R33). -/
@[simp] theorem sequencerStep_request : (sequencerStep c s).host.request = s.host.request := by
  cases h : s.seq.resting with
  | false => rw [sequencerStep_eq c h, lineStep_host]; split <;> simp
  | true => rw [sequencerStep_resting c h]

@[simp] theorem sequencerStep_blockNumber :
    (sequencerStep c s).host.blockNumber = s.host.blockNumber := by
  cases h : s.seq.resting with
  | false => rw [sequencerStep_eq c h, lineStep_host]; split <;> simp
  | true => rw [sequencerStep_resting c h]

end Sys2Proof.Machine
end

