-- ==== Sys2Proof/Laws/Transaction.lean ====
section
/-! SUPPORT. The run of one command transaction, said once (R149): first the sequencer's own steps from
the select to the return to the caller's next line, then the agents' steps with the guard in whatever state. -/

namespace Sys2Proof.Machine

/-! ## Transfers in a row -/

/-- Send bytes one after the other (R143), what is received recorded and not used. -/
def State.sendAll (s : State) (l : List Byte) : State := l.foldl (fun s b => s.xfer b) s

namespace State

variable (s : State)

@[simp] theorem sendAll_nil : s.sendAll [] = s := rfl
theorem sendAll_cons (b : Byte) (l : List Byte) : s.sendAll (b :: l) = (s.xfer b).sendAll l := rfl
theorem sendAll_append (l l' : List Byte) : s.sendAll (l ++ l') = (s.sendAll l).sendAll l' := by
  simp [sendAll]

/-- Transfers change the recorded events and the environment, nothing else. -/
theorem sendAll_eq (l : List Byte) : s.sendAll l =
    { s with trace := (s.sendAll l).trace, env := (s.sendAll l).env } := by
  induction l generalizing s with
  | nil => rfl
  | cons b l ih => rw [sendAll_cons, ih]; rfl

@[simp] theorem sendAll_ds (l : List Byte) : (s.sendAll l).ds = s.ds := by rw [sendAll_eq]
@[simp] theorem sendAll_tg (l : List Byte) : (s.sendAll l).tg = s.tg := by rw [sendAll_eq]
@[simp] theorem sendAll_bt (l : List Byte) : (s.sendAll l).bt = s.bt := by rw [sendAll_eq]
@[simp] theorem sendAll_seq (l : List Byte) : (s.sendAll l).seq = s.seq := by rw [sendAll_eq]
@[simp] theorem sendAll_cmdSeq (l : List Byte) : (s.sendAll l).cmdSeq = s.cmdSeq := by rw [sendAll_eq]
@[simp] theorem sendAll_w (l : List Byte) : (s.sendAll l).w = s.w := by rw [sendAll_eq]
@[simp] theorem sendAll_host (l : List Byte) : (s.sendAll l).host = s.host := by rw [sendAll_eq]
@[simp] theorem sendAll_buffer (l : List Byte) : (s.sendAll l).buffer = s.buffer := by rw [sendAll_eq]

/-- After `l.length` transfers the card's later answers have moved up by as many. -/
theorem answer_sendAll (l : List Byte) (n : Nat) :
    (s.sendAll l).answer n = s.answer (l.length + n) := by
  induction l generalizing s with
  | nil => simp
  | cons b l ih => rw [sendAll_cons, ih, answer_xfer]; congr 1; simp; omega

@[simp] theorem sendAll_transfers (l : List Byte) :
    (s.sendAll l).env.transfers = s.env.transfers + l.length := by
  induction l generalizing s with
  | nil => simp
  | cons b l ih => rw [sendAll_cons, ih]; simp; omega

@[simp] theorem sendAll_cardIn (l : List Byte) :
    (s.sendAll l).env.cardIn = s.env.cardIn.drop l.length := by
  induction l generalizing s with
  | nil => simp
  | cons b l ih => rw [sendAll_cons, ih]; simp

@[simp] theorem sendAll_expiryIn (l : List Byte) : (s.sendAll l).env.expiryIn = s.env.expiryIn := by
  induction l generalizing s with
  | nil => rfl
  | cons b l ih => rw [sendAll_cons, ih]; rfl

@[simp] theorem sendAll_arms (l : List Byte) : (s.sendAll l).env.arms = s.env.arms := by
  induction l generalizing s with
  | nil => rfl
  | cons b l ih => rw [sendAll_cons, ih]; rfl

@[simp] theorem sendAll_countdown (l : List Byte) :
    (s.sendAll l).env.countdown = s.env.countdown := by
  induction l generalizing s with
  | nil => rfl
  | cons b l ih => rw [sendAll_cons, ih]; rfl

/-- The events of transfers in a row (R142). -/
theorem sendAll_trace (l : List Byte) :
    (s.sendAll l).trace = s.trace ++ s.exchange s.bt.csAsserted s.bt.divider 0 l := by
  induction l generalizing s with
  | nil => simp [exchange]
  | cons b l ih =>
    rw [sendAll_cons, ih]
    simp only [exchange, xfer_trace, xfer_bt, List.append_assoc, answer_xfer, List.mapIdx_cons,
      List.singleton_append, answer_zero, Nat.zero_add]

end State

/-! ## The sequencer's own steps -/

variable (c : Params)

/-- `n` steps of the sequencer, each at a call of `Command`, the handler left out. -/
def callRun (c : Params) : Nat → State → Option State
  | 0, s => some s
  | n + 1, s => if s.seq.isCall then callRun c n (sequencerStep c s) else none

theorem callRun_succ {s : State} (n : Nat) (h : s.seq.isCall = true) :
    callRun c (n + 1) s = callRun c n (sequencerStep c s) := by simp [callRun, h]

theorem callRun_add {m : Nat} {s t : State} (n : Nat) (h : callRun c m s = some t) :
    callRun c (m + n) s = callRun c n t := by
  induction m generalizing s with
  | zero => simp only [callRun, Option.some.injEq] at h; simp [h]
  | succ m ih =>
    cases hs : s.seq.isCall with
    | false => simp [callRun, hs] at h
    | true => rw [callRun_succ c m hs] at h; rw [Nat.succ_add, callRun_succ c _ hs]; exact ih h

/-- The command sent depends on the position, the address and the card version only. -/
theorem callOf_commandDecision (s : State) : (commandDecision c s).callOf c = s.callOf c := by
  have hw := commandDecision_w s c
  simp only [State.callOf, commandDecision_seq]
  rw [hw]

/-- A step at a call of `Command` is the transaction's, its pure computation made. -/
theorem step_call {k : Command} {s : State} (h : s.callOf c = some k) :
    sequencerStep c s = transactionStep c k (commandDecision c s) := by
  have hi := isCall_of_callOf c h
  rw [sequencerStep_eq c (resting_of_isCall hi), s.computed_of_line c (isPure_of_isCall hi)]
  exact lineStep_of_call _ c ((callOf_commandDecision c s).trans h)

/-- The computation made, the steps are the same: it is part of the step that follows. -/
theorem callRun_decided (n : Nat) {s : State} (h : s.seq.isCall = true) :
    callRun c (n + 1) s = callRun c (n + 1) (commandDecision c s) := by
  obtain ⟨k, hk⟩ := callOf_of_isCall c h
  rw [callRun_succ c n h, callRun_succ c n (by rw [commandDecision_seq]; exact h), step_call c hk,
    step_call c ((callOf_commandDecision c s).trans hk), commandDecision_idem]

/-- At a call the step is the transaction's at its place, where the computation changes nothing. -/
theorem step_at {s t : State} (h : s.seq.isCall = true) (hd : commandDecision c s = s)
    (ht : ∀ k, transactionStep c k s = t) : sequencerStep c s = t := by
  obtain ⟨k, hk⟩ := callOf_of_isCall c h
  rw [step_call c hk, hd, ht]

theorem step_poll {s : State} (h : s.seq.isCall = true) (hc : s.cmdSeq = .poll) :
    sequencerStep c s = s.cmdPoll c :=
  step_at c h (by simp [commandDecision, hc]) fun k => by simp [transactionStep, hc]

theorem step_pollReturn {s : State} (h : s.seq.isCall = true) (hc : s.cmdSeq = .pollReturn) :
    sequencerStep c s = s.cmdPollReturn :=
  step_at c h (by simp [commandDecision, hc]) fun k => by simp [transactionStep, hc]

theorem step_statusReturn {s : State} (h : s.seq.isCall = true) (hc : s.cmdSeq = .statusReturn) :
    sequencerStep c s = s.cmdStatusReturn c :=
  step_at c h (by simp [commandDecision, hc]) fun k => by simp [transactionStep, hc]

theorem step_payload {s : State} (h : s.seq.isCall = true) (hc : s.cmdSeq = .payload) :
    sequencerStep c s = s.cmdPayload c :=
  step_at c h (by simp [commandDecision, hc]) fun k => by simp [transactionStep, hc]

theorem step_payloadReturn {s : State} (h : s.seq.isCall = true) (hc : s.cmdSeq = .payloadReturn) :
    sequencerStep c s = s.cmdPayloadReturn :=
  step_at c h (by simp [commandDecision, hc]) fun k => by simp [transactionStep, hc]

theorem step_restore {s : State} (h : s.seq.isCall = true) (hc : s.cmdSeq = .restore) :
    sequencerStep c s = s.cmdRestore :=
  step_at c h (by simp [commandDecision, hc]) fun k => by simp [transactionStep, hc]

theorem step_callReturn {s : State} (h : s.seq.isCall = true) (hc : s.cmdSeq = .callReturn) :
    sequencerStep c s = s.cmdReturn :=
  step_at c h (by simp [commandDecision, hc]) fun k => by simp [transactionStep, hc]

/-- Past the first byte of a frame there is nothing to encode. -/
theorem step_send {s : State} (h : s.seq.isCall = true) (hc : s.cmdSeq = .send)
    (hb : s.w.byteCount.toNat ≠ 0) : sequencerStep c s = s.cmdSend c :=
  step_at c h (by
    have : s.w.byteCount ≠ 0#10 := fun e => hb (by rw [e]; rfl)
    simp [commandDecision, hc, State.encodeFirst, this]) fun k => by simp [transactionStep, hc]

/-- The first byte of a frame: the frame is encoded in the same step (R9, R100). -/
theorem step_send_first {s : State} (h : s.seq.isCall = true) (hc : s.cmdSeq = .send)
    (hb : s.w.byteCount = 0#10) : sequencerStep c s =
      State.cmdSend c { s with w.frame := encodeFrame ⟨s.w.cmdIndex, s.w.cmdArg, s.w.cmdChk⟩ } := by
  obtain ⟨k, hk⟩ := callOf_of_isCall c h
  rw [step_call c hk]
  simp [commandDecision, transactionStep, State.encodeFirst, hc, hb]

/-- Transfers do not look at the working registers or the place. -/
theorem State.sendAll_update (s : State) (w : Work) (q : CmdPos) (l : List Byte) :
    State.sendAll { s with cmdSeq := q, w := w } l = { s.sendAll l with cmdSeq := q, w := w } := by
  induction l generalizing s with
  | nil => rfl
  | cons b l ih => simp only [State.sendAll_cons]; exact ih (s.xfer b)

theorem frameBytes_drop (w : Frame) (i : Nat) (h : i < 6) :
    (frameBytes params w).drop i = frameByte w i :: (frameBytes params w).drop (i + 1) := by
  interval_cases i <;> rfl

/-- A counter below its width's end counts as a number does. -/
theorem toNat_succ {b : BitVec 10} {m : Nat} (h : b.toNat = m) (hm : m < 1023) :
    (b + 1#10).toNat = m + 1 := by
  rw [BitVec.toNat_add, h]; exact Nat.mod_eq_of_lt (by simp; omega)

/-- The rest of the frame goes out after the first byte (R149). -/
theorem send_run (n : Nat) {s : State} (h : s.seq.isCall = true) (hc : s.cmdSeq = .send)
    (h0 : s.w.byteCount.toNat ≠ 0) (hn : s.w.byteCount.toNat + n + 1 = 6) :
    callRun params (n + 1) s = some
      { s.sendAll ((frameBytes params s.w.frame).drop s.w.byteCount.toNat) with
        cmdSeq := .poll, w := { s.w with byteCount := 0#10 } } := by
  induction n generalizing s with
  | zero =>
    rw [frameBytes_drop _ _ (by omega)]
    have hb : s.w.byteCount.toNat = 5 := by omega
    rw [callRun_succ params _ h, callRun, step_send params h hc h0, State.cmdSend, hb]
    rfl
  | succ n ih =>
    rw [frameBytes_drop _ _ (by omega), State.sendAll_cons]
    have hs : sequencerStep params s =
        { s.xfer (frameByte s.w.frame s.w.byteCount.toNat) with
          cmdSeq := s.cmdSeq, w := { s.w with byteCount := s.w.byteCount + 1#10 } } := by
      rw [step_send params h hc h0, State.cmdSend, if_pos (by simp [params]; omega)]; rfl
    have hb := toNat_succ (b := s.w.byteCount) rfl (by omega)
    rw [callRun_succ params _ h, hs,
      ih (by exact h) (by exact hc) (by simp only [hb]; omega) (by simp only [hb]; omega)]
    simp only [hb, State.sendAll_update]

/-- The frame of the operands goes out whole (R100, R149). -/
theorem frame_run {s : State} (h : s.seq.isCall = true) (hc : s.cmdSeq = .send)
    (hb : s.w.byteCount = 0#10) :
    let f := encodeFrame ⟨s.w.cmdIndex, s.w.cmdArg, s.w.cmdChk⟩
    callRun params 6 s = some
      { s.sendAll (frameBytes params f) with cmdSeq := .poll, w := { s.w with frame := f } } := by
  intro f
  have hs : sequencerStep params s =
      { s.xfer (frameByte f 0) with cmdSeq := s.cmdSeq, w := { s.w with frame := f, byteCount := 1#10 } } := by
    rw [step_send_first params h hc hb, State.cmdSend, if_pos (by simp [hb, params])]
    simp only [hb]; rfl
  rw [callRun_succ params 5 h, hs,
    send_run 4 (by exact h) (by exact hc) (by simp) (by simp)]
  simp only [State.sendAll_update, ← hb]
  rfl

/-- The kind a poll's outcome gives (R126). -/
def pollKind (found : Option Byte) : ErrorKind :=
  match found with
  | none => .noResponse
  | some b => decodeStatus b

/-- Everything a poll can come to: a byte that is not fill, or every poll without one (R120, R126). -/
theorem pollStatus_cases (fill : Byte) (n : Nat) (bytes : Nat → Byte) :
    (∃ b, (pollStatus fill n bytes).2 = some b ∧ b ≠ fill) ∨
    ((pollStatus fill n bytes).2 = none ∧ (pollStatus fill n bytes).1 = n) := by
  induction n generalizing bytes with
  | zero => exact .inr ⟨rfl, rfl⟩
  | succ n ih =>
    by_cases hb : bytes 0 = fill
    · simpa [pollStatus, hb] using ih fun i => bytes (i + 1)
    · exact .inl ⟨bytes 0, by simp [pollStatus, hb], hb⟩

theorem pollStatus_bounds (fill : Byte) (n : Nat) (bytes : Nat → Byte) :
    (pollStatus fill (n + 1) bytes).1 ≠ 0 ∧ (pollStatus fill n bytes).1 ≤ n := by
  constructor
  · simp only [pollStatus]; split <;> simp
  · induction n generalizing bytes with
    | zero => simp [pollStatus]
    | succ n ih => simp only [pollStatus]; split <;> simp [ih]

/-- The polling of a status byte with `n + 1` polls left, to the last byte polled (R120, R126). -/
theorem poll_run (hl : c.responsePollLimit < 16) (n : Nat) {s : State} (h : s.seq.isCall = true)
    (hc : s.cmdSeq = .poll) (hn : s.w.pollCount.toNat + n + 1 = c.responsePollLimit) :
    let p := pollStatus c.fill (n + 1) s.answer
    callRun c p.1 s = some
      { s.sendAll (List.replicate p.1 c.fill) with
        cmdSeq := .polled
        w := { s.w with
          pollCount := s.w.pollCount + BitVec.ofNat 4 p.1, status := p.2.getD c.fill } } := by
  have hs : ∀ {s : State}, s.seq.isCall = true → s.cmdSeq = .poll →
      sequencerStep c s = { s.xfer c.fill with
        cmdSeq := .polled
        w := { s.w with status := s.cardByte, pollCount := s.w.pollCount + 1#4 } } :=
    fun h hc => by rw [step_poll c h hc]; rfl
  induction n generalizing s with
  | zero =>
    by_cases hb : s.cardByte = c.fill <;>
      simp [pollStatus, State.answer_zero, hb, callRun, h, hs h hc, State.sendAll_cons]
  | succ n ih =>
    rw [pollStatus]
    simp only [State.answer_zero]
    by_cases hb : s.cardByte = c.fill
    · -- what was polled is fill, and polls are left: the next step polls again
      let s1 : State := { s.xfer c.fill with
        cmdSeq := .polled, w := { s.w with status := c.fill, pollCount := s.w.pollCount + 1#4 } }
      have hp : (s.w.pollCount + 1#4).toNat = s.w.pollCount.toNat + 1 := by
        rw [BitVec.toNat_add]; exact Nat.mod_eq_of_lt (by simp; omega)
      have hd : commandDecision c s1 = { s1 with cmdSeq := .poll } := by
        have : (s.w.pollCount + 1#4).toNat < c.responsePollLimit := by omega
        simp only [commandDecision, State.pollDecision, s1]
        rw [if_pos ⟨trivial, this⟩]
      have hi := ih (s := { s1 with cmdSeq := .poll }) (by exact h) rfl (by
        simp only [s1, hp]; omega)
      have ha : (State.answer { s1 with cmdSeq := .poll }) = fun i => s.answer (i + 1) := by
        funext i; rw [← s.answer_xfer c.fill]; rfl
      obtain ⟨m, hm⟩ := Nat.exists_eq_succ_of_ne_zero
        (pollStatus_bounds c.fill n fun i => s.answer (i + 1)).1
      have hg := callRun_decided c m (s := s1) (by exact h)
      simp only [ha, hm] at hi
      rw [hd, hi] at hg
      have e : sequencerStep c s = s1 := by rw [hs h hc, hb]
      simp only [hb, ne_eq, not_true_eq_false, if_false, hm]
      rw [callRun_succ c _ h, e, hg]
      simp only [s1, List.replicate_succ (n := m + 1), State.sendAll_cons, State.sendAll_update,
        Nat.succ_eq_add_one]
      have hadd : s.w.pollCount + 1#4 + BitVec.ofNat 4 (m + 1) =
          s.w.pollCount + BitVec.ofNat 4 (m + 1 + 1) := by
        rw [BitVec.add_assoc, Nat.add_comm (m + 1) 1, BitVec.ofNat_add 1]
      rw [hadd]
    · simp [hb, callRun, h, hs h hc, State.sendAll_cons]

/-- From the last byte polled to the kind `Status` returns: the poll is over, and returns, and so does
`Status` (R120, R121, R126). -/
theorem status_run (hl : c.responsePollLimit < 16) {t : State} {bytes : Nat → Byte}
    (h : t.seq.isCall = true) (hc : t.cmdSeq = .polled)
    (hp : t.w.pollCount = BitVec.ofNat 4 (pollStatus c.fill c.responsePollLimit bytes).1)
    (hs : t.w.status = (pollStatus c.fill c.responsePollLimit bytes).2.getD c.fill) :
    callRun c 2 t = some { t with
      cmdSeq := .statusTaken
      w := { t.w with kind := pollKind (pollStatus c.fill c.responsePollLimit bytes).2 } } := by
  have hd : commandDecision c t = { t with cmdSeq := .pollReturn } ∧
      (if t.w.status = c.fill then .noResponse else decodeStatus t.w.status) =
        pollKind (pollStatus c.fill c.responsePollLimit bytes).2 := by
    rcases pollStatus_cases c.fill c.responsePollLimit bytes with ⟨b, he, hb⟩ | ⟨he, hn⟩
    · have hst : t.w.status = b := by rw [hs, he]; rfl
      simp [commandDecision, hc, State.pollDecision, hst, hb, pollKind, he]
    · have hst : t.w.status = c.fill := by rw [hs, he]; rfl
      have hlt : ¬ t.w.pollCount.toNat < c.responsePollLimit := by
        rw [hp, hn]; simp [Nat.mod_eq_of_lt hl]
      simp [commandDecision, hc, State.pollDecision, hst, hlt, pollKind, he]
  rw [callRun_decided c 1 h, hd.1, callRun_succ c 1 (by exact h), step_pollReturn c (by exact h) rfl,
    callRun_succ c 0 (by exact h), step_statusReturn c (by exact h) rfl, callRun]
  rw [← hd.2]; rfl

/-- One payload byte that is not the last. -/
theorem payload_step {s : State} (h : s.seq.isCall = true) (hc : s.cmdSeq = .payload)
    (hb : s.w.byteCount.toNat + 1 < c.payloadBytes) :
    sequencerStep c s = { s.xfer c.fill with
      cmdSeq := .payload
      w := { s.w with
        payload := s.w.payload ||| payloadPlace c.payloadWireOrder s.w.byteCount.toNat (s.answer 0)
        byteCount := s.w.byteCount + 1#10 } } := by
  rw [step_payload c h hc, State.cmdPayload, if_pos hb, State.answer_zero, ← hc]; rfl

/-- The last payload byte. -/
theorem payload_last {s : State} (h : s.seq.isCall = true) (hc : s.cmdSeq = .payload)
    (hb : ¬ s.w.byteCount.toNat + 1 < c.payloadBytes) :
    sequencerStep c s = { s.xfer c.fill with
      cmdSeq := .payloadReturn
      w := { s.w with
        payload := s.w.payload ||| payloadPlace c.payloadWireOrder s.w.byteCount.toNat (s.answer 0) } } := by
  rw [step_payload c h hc, State.cmdPayload, if_neg hb, State.answer_zero]; rfl

/-- The four payload bytes and the return of `ReadPayload` (R123, R55). -/
theorem payload_run {s : State} (h : s.seq.isCall = true) (hc : s.cmdSeq = .payload)
    (h4 : c.payloadBytes = 4) (hb : s.w.byteCount = 0#10) (hp : s.w.payload = 0#32) :
    callRun c 5 s = some
      { s.sendAll (List.replicate 4 c.fill) with
        cmdSeq := .restore
        w := { s.w with
          payload := assemble c.payloadWireOrder (s.answer 0) (s.answer 1) (s.answer 2) (s.answer 3)
          payloadHeld := true
          byteCount := 3#10 } } := by
  have up : ∀ (t : State) (w : Work) (q : CmdPos) (n : Nat),
      State.answer { t.xfer c.fill with cmdSeq := q, w := w } n = t.answer (n + 1) := by
    intro t w q n; rw [← t.answer_xfer c.fill]; rfl
  rw [callRun_succ c _ h, payload_step c h hc (by simp [hb, h4]),
    callRun_succ c _ (by exact h), payload_step c (by exact h) (by rfl) (by simp [hb, h4]), up,
    callRun_succ c _ (by exact h), payload_step c (by exact h) (by rfl) (by simp [hb, h4]), up, up,
    callRun_succ c _ (by exact h), payload_last c (by exact h) (by rfl) (by simp [hb, h4]), up, up, up,
    callRun_succ c _ (by exact h), step_payloadReturn c (by exact h) (by rfl)]
  simp only [hb, hp, assemble, BitVec.zero_or]
  rfl

/-- The end of a transaction: its restore, reached with `l` transferred, and its return. -/
theorem restore_run {s t : State} (l : List Byte) (kind : ErrorKind) (payload : Word) (held : Bool)
    (hcall : s.seq.isCall = true) (w : Work)
    (ht : t = { State.sendAll { s with bt.csAsserted := true } l with cmdSeq := .restore, w := w })
    (hp : w.priorInner = s.bt.csAsserted)
    (hw : w.afterTransaction = { s.w.afterTransaction with
      kind := kind, payload := payload, payloadHeld := held }) :
    callRun c 2 t = some { State.sendAll { s with bt.csAsserted := true } l with
      bt := s.bt
      seq := s.seq.afterCall
      cmdSeq := .select
      w := { s.w.afterTransaction with kind := kind, payload := payload, payloadHeld := held } } := by
  have hseq : t.seq = s.seq := by rw [ht]; exact State.sendAll_seq _ _
  have hi : t.seq.isCall = true := by rw [hseq]; exact hcall
  have hbt : (State.sendAll { s with bt.csAsserted := true } l).bt = { s.bt with csAsserted := true } :=
    State.sendAll_bt _ _
  rw [callRun_succ c _ hi, step_restore c hi (by rw [ht]), callRun_succ c _ (by exact hi), callRun,
    step_callReturn c (by exact hi) (by rfl)]
  simp only [State.cmdReturn, State.cmdRestore_seq, State.cmdRestore_w, hseq]
  rw [State.cmdRestore, ← hw, ht]
  simp only [State.restoreInner, hbt, hp]

/-- The run of a transaction from its select to the caller's next line (R149): what it sends, what it
returns, the line back at the caller's level, nothing of it kept but the kind and the payload (R124). -/
theorem transaction_run {k : Command} {s : State} (hk : s.callOf params = some k)
    (hs : s.cmdSeq = .select) :
    let r := s.reply 0 k.index
    callRun params r.steps s = some
      { State.sendAll { s with bt.csAsserted := true } (commandBytes k r) with
        bt := s.bt
        seq := s.seq.afterCall
        cmdSeq := .select
        w := { s.w.afterTransaction with
          kind := r.kind, payload := r.payload.getD 0#32, payloadHeld := r.payload.isSome } } := by
  intro r
  have hcall := isCall_of_callOf params hk
  -- select
  let s1 := s.cmdSelect k
  have h1 : callRun params 1 s = some s1 := by
    rw [callRun_succ _ _ hcall, step_call params hk, commandDecision_of_select s params hs,
      transactionStep, hs]
    rfl
  -- the frame
  have h2 := frame_run (s := s1) hcall rfl rfl
  simp only [show (⟨s1.w.cmdIndex, s1.w.cmdArg, s1.w.cmdChk⟩ : Command) = k from rfl] at h2
  generalize hs2 : ({ s1.sendAll (frameBytes params (encodeFrame k)) with
    cmdSeq := CmdPos.poll, w := { s1.w with frame := encodeFrame k } } : State) = s2 at h2
  have hcall2 : s2.seq.isCall = true := by
    rw [← hs2]; exact (congrArg Pos.isCall (s1.sendAll_seq _)).trans hcall
  have ans : s2.answer = fun i => s.answer (0 + 6 + i) := by
    funext i
    rw [← hs2]
    exact (s1.answer_sendAll (frameBytes params (encodeFrame k)) i).trans (by rw [Nat.zero_add]; rfl)
  -- the polls
  have h3 := poll_run params (by decide) 9 (s := s2) hcall2 (by rw [← hs2]) (by rw [← hs2]; rfl)
  simp only [show params.fill = 0xFF#8 from rfl] at h3
  rw [ans] at h3
  generalize hp : pollStatus 0xFF#8 (9 + 1) (fun i => s.answer (0 + 6 + i)) = p at h3
  have hr : r.polls = p.1 ∧ r.kind = pollKind p.2 := by rw [← hp]; exact ⟨rfl, rfl⟩
  have h123 := (callRun_add params _ h1).trans ((callRun_add params _ h2).trans h3)
  have es2 : s2 = { State.sendAll { s with bt.csAsserted := true } (frameBytes params (encodeFrame k)) with
      cmdSeq := CmdPos.poll, w := { s1.w with frame := encodeFrame k } } := by
    rw [← hs2]
    exact congrArg (fun t : State =>
        { t with cmdSeq := CmdPos.poll, w := { s1.w with frame := encodeFrame k } })
      (State.sendAll_update { s with bt.csAsserted := true } s1.w .send _)
  rw [es2, State.sendAll_update, ← State.sendAll_append] at h123
  -- the returns of PollStatus and Status
  have hst := status_run params (by decide) (bytes := fun i => s.answer (0 + 6 + i))
    (t := { State.sendAll { s with bt.csAsserted := true }
        (frameBytes params (encodeFrame k) ++ List.replicate p.1 0xFF#8) with
      cmdSeq := .polled
      w := { s1.w with
        frame := encodeFrame k
        pollCount := 0#4 + BitVec.ofNat 4 p.1
        status := p.2.getD 0xFF#8 } })
    ((congrArg Pos.isCall (State.sendAll_seq _ _)).trans hcall) rfl
    (by rw [← hp]; exact BitVec.zero_add _) (by rw [← hp]; rfl)
  simp only [show params.fill = 0xFF#8 from rfl, show params.responsePollLimit = 9 + 1 from rfl, hp] at hst
  have h1234 := (callRun_add params 2 h123).trans hst
  let w3 : Work := { s1.w with
    frame := encodeFrame k
    pollCount := 0#4 + BitVec.ofNat 4 p.1, status := p.2.getD 0xFF#8, kind := pollKind p.2 }
  let q : CmdPos :=
    if (pollKind p.2).benign = true ∧ 0 < payloadLen params k.index then .payload else .restore
  -- what follows
  have hrun : ∀ m, callRun params (1 + (6 + p.1) + 2 + (m + 1)) s = callRun params (m + 1)
      { State.sendAll { s with bt.csAsserted := true }
          (frameBytes params (encodeFrame k) ++ List.replicate p.1 0xFF#8) with
        cmdSeq := q, w := w3 } := by
    intro m
    refine (callRun_add params (m + 1) h1234).trans ((callRun_decided params m ?_).trans ?_)
    · exact (congrArg Pos.isCall (State.sendAll_seq _ _)).trans hcall
    · refine congrArg (callRun params (m + 1)) ?_
      simp only [commandDecision, State.payloadDecision, q]
      split <;> split <;> first | rfl | contradiction
  have hlen : payloadLen params k.index = 4 ∨ payloadLen params k.index = 0 := by
    unfold payloadLen; split <;> simp [params]
  by_cases hc : (pollKind p.2).benign = true ∧ 0 < payloadLen params k.index
  · have hpay : r.payload = some (assemble params.payloadWireOrder (s.answer (0 + 6 + p.1))
        (s.answer (0 + 6 + p.1 + 1)) (s.answer (0 + 6 + p.1 + 2)) (s.answer (0 + 6 + p.1 + 3))) := by
      have : r.payload = if r.kind.benign && decide (payloadLen params k.index = 4) then
          some (assemble params.payloadWireOrder (s.answer (0 + 6 + r.polls))
            (s.answer (0 + 6 + r.polls + 1)) (s.answer (0 + 6 + r.polls + 2))
            (s.answer (0 + 6 + r.polls + 3))) else none := rfl
      rw [this, hr.2, hr.1, if_pos]
      simp only [Bool.and_eq_true, decide_eq_true_eq]
      exact ⟨hc.1, by omega⟩
    have htr : r.transfers = 6 + p.1 + 4 := by simp [Reply.transfers, hpay, hr.1, params]
    have hst : r.steps = 1 + (6 + p.1) + 2 + (6 + 1) := by simp [Reply.steps, htr, hpay]; omega
    have hq : q = .payload := if_pos hc
    rw [hq] at hrun
    have h4 := payload_run params
      (s := { State.sendAll { s with bt.csAsserted := true }
        (frameBytes params (encodeFrame k) ++ List.replicate p.1 0xFF#8) with
        cmdSeq := .payload, w := w3 })
      ((congrArg Pos.isCall (State.sendAll_seq _ _)).trans hcall) rfl rfl rfl rfl
    have up : ∀ n, State.answer { State.sendAll { s with bt.csAsserted := true }
        (frameBytes params (encodeFrame k) ++ List.replicate p.1 0xFF#8) with
        cmdSeq := .payload, w := w3 } n = s.answer (0 + 6 + p.1 + n) := by
      intro n
      refine (State.answer_sendAll { s with bt.csAsserted := true } _ n).trans ?_
      rw [List.length_append, List.length_replicate,
        show (frameBytes params (encodeFrame k)).length = 6 from rfl, Nat.zero_add]
      rfl
    rw [State.sendAll_update, ← State.sendAll_append, up, up, up, up] at h4
    have hb : commandBytes k r = frameBytes params (encodeFrame k) ++ List.replicate p.1 0xFF#8 ++
        List.replicate 4 params.fill := by
      rw [commandBytes, htr, show 6 + p.1 + 4 - params.frameLen = p.1 + 4 by simp [params]; omega,
        List.replicate_add, List.append_assoc]
      rfl
    have h5 := restore_run params (s := s) (frameBytes params (encodeFrame k) ++
      List.replicate p.1 0xFF#8 ++ List.replicate 4 params.fill) (pollKind p.2) _ true hcall
      { w3 with
        payload := assemble params.payloadWireOrder (s.answer (0 + 6 + p.1))
          (s.answer (0 + 6 + p.1 + 1)) (s.answer (0 + 6 + p.1 + 2)) (s.answer (0 + 6 + p.1 + 3))
        payloadHeld := true
        byteCount := 3#10 } rfl rfl rfl
    have h6 := (callRun_add params 2 h4).trans h5
    rw [hb, hpay, hr.2, hst, hrun 6]
    exact h6
  · have hpay : r.payload = none := by
      have : r.payload = if r.kind.benign && decide (payloadLen params k.index = 4) then _ else none := rfl
      rw [this, hr.2, if_neg]
      simp only [Bool.and_eq_true, decide_eq_true_eq]
      rintro ⟨hb, h4⟩
      exact hc ⟨hb, by omega⟩
    have htr : r.transfers = 6 + p.1 := by simp [Reply.transfers, hpay, hr.1, params]
    have hst : r.steps = 1 + (6 + p.1) + 2 + (1 + 1) := by simp [Reply.steps, htr, hpay]; omega
    have hb : commandBytes k r = frameBytes params (encodeFrame k) ++ List.replicate p.1 0xFF#8 := by
      rw [commandBytes, htr, show 6 + p.1 - params.frameLen = p.1 by simp [params]]; rfl
    have hq : q = .restore := if_neg hc
    rw [hq] at hrun
    have h4 := restore_run params (s := s) (frameBytes params (encodeFrame k) ++
      List.replicate p.1 0xFF#8) (pollKind p.2) 0#32 false hcall w3 rfl rfl rfl
    rw [hb, hpay, hr.2, hst, hrun 1]
    exact h4

/-! ## The agents' steps -/

/-- The state with another guard and countdown. -/
def State.withGuard (s : State) (tg : TimeoutGuard) (n : Nat) : State :=
  { s with tg := tg, env.countdown := n }

/-- The guard and the countdown after `n` steps of the sequencer that neither arm nor disarm it, the
handler having taken its step if its moment came (R156, R157). -/
def guardAfter (n : Nat) (tg : TimeoutGuard) (countdown : Nat) : TimeoutGuard × Nat :=
  if tg.armed then if n ≤ countdown then (tg, countdown - n) else (⟨true, false⟩, 0)
  else (tg, countdown)

/-- How many agents' steps `n` steps of the sequencer take. -/
def guardSteps (n : Nat) (tg : TimeoutGuard) (countdown : Nat) : Nat :=
  if tg.armed ∧ countdown < n then n + 1 else n

namespace State

variable (s : State) (tg : TimeoutGuard) (n : Nat)

@[simp] theorem withGuard_self : s.withGuard s.tg s.env.countdown = s := rfl
@[simp] theorem withGuard_withGuard (tg' : TimeoutGuard) (n' : Nat) :
    (s.withGuard tg' n').withGuard tg n = s.withGuard tg n := rfl
@[simp] theorem withGuard_tg : (s.withGuard tg n).tg = tg := rfl
@[simp] theorem withGuard_seq : (s.withGuard tg n).seq = s.seq := rfl
@[simp] theorem withGuard_countdown : (s.withGuard tg n).env.countdown = n := rfl

/-- No computation inside a transaction looks at the guard. -/
theorem commandDecision_withGuard (c : Params) :
    commandDecision c (s.withGuard tg n) = (commandDecision c s).withGuard tg n := by
  simp only [commandDecision, encodeFirst, pollDecision, payloadDecision,
    show (s.withGuard tg n).cmdSeq = s.cmdSeq from rfl, show (s.withGuard tg n).w = s.w from rfl]
  repeat' split
  all_goals rfl

/-- No step of a transaction looks at the guard. -/
theorem transactionStep_withGuard (c : Params) (k : Command) :
    transactionStep c k (s.withGuard tg n) = (transactionStep c k s).withGuard tg n := by
  simp only [transactionStep, cmdSend, cmdPayload,
    show (s.withGuard tg n).cmdSeq = s.cmdSeq from rfl, show (s.withGuard tg n).w = s.w from rfl]
  repeat' split
  all_goals rfl

end State

theorem sequencerStep_withGuard {s : State} (h : s.seq.isCall = true) (tg : TimeoutGuard) (n : Nat) :
    sequencerStep c (s.withGuard tg n) = (sequencerStep c s).withGuard tg n := by
  obtain ⟨k, hk⟩ := callOf_of_isCall c h
  rw [step_call c hk, step_call c (s := s.withGuard tg n) (k := k) hk, State.commandDecision_withGuard,
    State.transactionStep_withGuard]

/-- A step inside a transaction leaves the guard. -/
theorem sequencerStep_tg_of_call {s : State} (h : s.seq.isCall = true) :
    (sequencerStep c s).tg = s.tg := by
  obtain ⟨k, hk⟩ := callOf_of_isCall c h
  rw [step_call c hk, transactionStep_tg, sameButPlace_commandDecision s c]

theorem callRun_withGuard {m : Nat} {s t : State} (h : callRun c m s = some t) (tg : TimeoutGuard)
    (n : Nat) : callRun c m (s.withGuard tg n) = some (t.withGuard tg n) := by
  induction m generalizing s with
  | zero => simp only [callRun, Option.some.injEq] at h ⊢; rw [h]
  | succ m ih =>
    cases hs : s.seq.isCall with
    | false => simp [callRun, hs] at h
    | true =>
      rw [callRun_succ c m hs] at h
      rw [callRun_succ c m (by exact hs), sequencerStep_withGuard c hs]
      exact ih h

/-- With the guard not armed the agents' steps are the sequencer's. -/
theorem runSteps_of_callRun_disarmed {m : Nat} {s t : State} (h : callRun c m s = some t)
    (ha : s.tg.armed = false) : runSteps c m s = t := by
  induction m generalizing s with
  | zero => simpa [callRun] using h
  | succ m ih =>
    cases hs : s.seq.isCall with
    | false => simp [callRun, hs] at h
    | true =>
      rw [callRun_succ c m hs] at h
      rw [runSteps_succ c m (resting_of_isCall hs), busStep_disarmed c ha]
      exact ih h (by rw [sequencerStep_tg_of_call c hs]; exact ha)

/-- The agents' steps over steps of the sequencer inside transactions: the same state but for the
guard, whose handler may have taken its one step anywhere between (R156, R249). -/
theorem runSteps_of_callRun {m : Nat} {s t : State} (h : callRun c m s = some t) :
    runSteps c (guardSteps m s.tg s.env.countdown) s =
      t.withGuard (guardAfter m s.tg s.env.countdown).1 (guardAfter m s.tg s.env.countdown).2 := by
  induction m generalizing s t with
  | zero =>
    simp only [callRun, Option.some.injEq] at h
    simp [guardSteps, guardAfter, ← h]
  | succ m ih =>
    cases ha : s.tg.armed with
    | false =>
      have e := runSteps_of_callRun_disarmed c h ha
      have et := callRun_withGuard c h s.tg s.env.countdown
      rw [State.withGuard_self, h, Option.some.injEq] at et
      simp only [guardSteps, guardAfter, ha, Bool.false_eq_true, false_and, if_false, e]
      exact et
    | true =>
      cases hs : s.seq.isCall with
      | false => simp [callRun, hs] at h
      | true =>
        rcases Nat.eq_zero_or_pos s.env.countdown with h0 | h0
        · have hd : s.handlerDue = true := (State.handlerDue_iff s).2 ⟨ha, h0⟩
          have hb : busStep c s = s.withGuard ⟨true, false⟩ 0 := by
            simp [busStep, hd, State.expiryHandler, State.withGuard, ← h0]
          have hr := runSteps_of_callRun_disarmed c (callRun_withGuard c h ⟨true, false⟩ 0) rfl
          have hm : ¬ m + 1 ≤ 0 := by omega
          simp only [guardSteps, guardAfter, ha, h0, true_and, Nat.succ_pos, if_true, hm, if_false]
          rw [runSteps_succ c _ (resting_of_isCall hs), hb, hr]
        · have hb : busStep c s = (sequencerStep c s).withGuard s.tg (s.env.countdown - 1) := by
            rw [busStep_armed c ha h0]; exact sequencerStep_withGuard c hs s.tg _
          rw [callRun_succ c m hs] at h
          have hi := ih (callRun_withGuard c h s.tg (s.env.countdown - 1))
          have hg : guardSteps (m + 1) s.tg s.env.countdown =
              guardSteps m s.tg (s.env.countdown - 1) + 1 := by
            simp only [guardSteps, ha, true_and]; split <;> split <;> omega
          have hg' : guardAfter (m + 1) s.tg s.env.countdown =
              guardAfter m s.tg (s.env.countdown - 1) := by
            simp only [guardAfter, ha, if_true]; split <;> split <;> first | rfl | omega | skip
            congr 1; omega
          rw [hg, runSteps_succ c _ (resting_of_isCall hs), hb, hg']
          exact hi

end Sys2Proof.Machine
end

