-- ==== Sys2Proof/Laws/Transfers.lean ====
section
/-! SUPPORT. The counted runs of transfers outside a transaction: the fill bytes of step 1 and of the
trailer, and the data phase. The guard is not armed in any of them. -/

namespace Sys2Proof.Machine

variable (c : Params)

/-- The transfers leave the buffer and the working registers alone. -/
theorem State.sendAll_with (l : List Byte) (t : State) (m : Memory) (w : Work) :
    State.sendAll { t with buffer := m, w := w } l = { t.sendAll l with buffer := m, w := w } := by
  induction l generalizing t with
  | nil => rfl
  | cons b l ih => simp only [State.sendAll_cons]; exact ih (t.xfer b)

/-- Outside a transaction, at a line that is no pure computation and no rest, a step is the line's. -/
theorem sequencerStep_line {s : State} (hr : s.seq.resting = false) (hp : s.seq.isPure = false)
    (hc : s.cmdSeq = .select) : sequencerStep c s = lineStep c s := by
  rw [sequencerStep_eq c hr, s.computed_self c hp hc]

/-- A counted run of fill bytes at a position `p` with `k` transfers left (R172, R206). -/
theorem clockFill_run {n : Nat} {p next : Pos} (hp : p.resting = false) (hn : n < 1024)
    (hstep : ∀ t : State, t.seq = p → t.cmdSeq = .select →
      sequencerStep c t = t.clockFill c n next)
    (k : Nat) {s : State} (hs : s.seq = p) (hc : s.cmdSeq = .select) (ha : s.tg.armed = false)
    (hk : s.w.byteCount.toNat + k + 1 = n) :
    runSteps c (k + 1) s =
      { s.sendAll (List.replicate (k + 1) c.fill) with
        seq := next, w := { s.w with byteCount := 0#10 } } := by
  induction k generalizing s with
  | zero =>
    rw [runSteps_succ c _ (by rw [hs]; exact hp), runSteps_zero, busStep_disarmed c ha, hstep s hs hc,
      State.clockFill, if_neg (by omega)]
    rfl
  | succ k ih =>
    have hb := toNat_succ (b := s.w.byteCount) rfl (by omega)
    have h1 : busStep c s = { s.xfer c.fill with w.byteCount := s.w.byteCount + 1#10 } := by
      rw [busStep_disarmed c ha, hstep s hs hc, State.clockFill, if_pos (by omega)]
    rw [runSteps_succ c _ (by rw [hs]; exact hp), h1,
      ih (by exact hs) (by exact hc) (by exact ha) (by simp only [hb]; omega),
      List.replicate_succ (n := k + 1), State.sendAll_cons]
    rw [show ({ s.xfer c.fill with w.byteCount := s.w.byteCount + 1#10 } : State) =
        { s.xfer c.fill with
          buffer := s.buffer, w := { s.w with byteCount := s.w.byteCount + 1#10 } } from rfl,
      State.sendAll_with]
    exact congrArg (fun m : Memory => { (s.xfer c.fill).sendAll (List.replicate (k + 1) c.fill) with
      seq := next, w := { s.w with byteCount := 0#10 }, buffer := m })
      (State.sendAll_buffer (s.xfer c.fill) (List.replicate (k + 1) c.fill)).symm

/-- The bytes of `l` stored at the positions from `i` on, in rising order (R205). -/
def Memory.writeAll (m : Memory) (i : Nat) : List Byte → Memory
  | [] => m
  | b :: l => Memory.writeAll (Memory.write m i b) (i + 1) l

/-- What a position reads as once the bytes of `l` are stored from `i` on. -/
theorem Memory.read_writeAll (m : Memory) (i : Nat) (l : List Byte) (a : Nat) :
    (Memory.writeAll m i l).read a =
      if h : i ≤ a ∧ a - i < l.length then some l[a - i] else m.read a := by
  induction l generalizing m i with
  | nil => simp [Memory.writeAll]
  | cons b l ih =>
    rw [Memory.writeAll, ih, Memory.read_write]
    by_cases h1 : i + 1 ≤ a ∧ a - (i + 1) < l.length
    · have h2 : i ≤ a ∧ a - i < (b :: l).length := by simp only [List.length_cons]; omega
      rw [dif_pos h1, dif_pos h2]
      have e : a - i = (a - (i + 1)) + 1 := by omega
      simp only [e, List.getElem_cons_succ]
    · rw [dif_neg h1]
      by_cases h3 : a = i
      · subst h3; simp
      · have h2 : ¬ (i ≤ a ∧ a - i < (b :: l).length) := by simp only [List.length_cons]; omega
        rw [dif_neg h2, if_neg h3]

/-- The card's next `n` answers. -/
def State.answers (s : State) (n : Nat) : List Byte := (List.range n).map s.answer

theorem State.answers_succ (s : State) (b : Byte) (n : Nat) :
    s.answers (n + 1) = s.answer 0 :: (s.xfer b).answers n := by
  simp only [State.answers, List.range_succ_eq_map, List.map_cons, List.map_map]
  congr 1
  exact List.map_congr_left fun i _ => (s.answer_xfer b i).symm

/-- The data phase with `k` bytes left (R205). -/
theorem data_run (hl : c.sectorLen = 512) (k : Nat) {s : State} (hs : s.seq = .readData)
    (hc : s.cmdSeq = .select) (ha : s.tg.armed = false) (hk : s.w.byteCount.toNat + k + 1 = 512) :
    runSteps c (k + 1) s =
      { s.sendAll (List.replicate (k + 1) c.fill) with
        seq := .readTrailer
        w := { s.w with byteCount := 0#10 }
        buffer := s.buffer.writeAll s.w.byteCount.toNat (s.answers (k + 1)) } := by
  have hstep : ∀ t : State, t.seq = .readData → t.cmdSeq = .select →
      sequencerStep c t = t.dataXfer c := by
    intro t ht hc
    rw [sequencerStep_line c (by rw [ht]; rfl) (by rw [ht]; rfl) hc]
    simp [lineStep, State.callOf, ht, readStep]
  induction k generalizing s with
  | zero =>
    rw [runSteps_succ c _ (by rw [hs]; rfl), runSteps_zero, busStep_disarmed c ha, hstep s hs hc,
      State.dataXfer, if_neg (by omega), State.memWrite, if_pos (by simp only [bufferLen]; omega)]
    simp only [State.answers, List.range_succ, List.range_zero, List.nil_append, List.map_cons,
      List.map_nil, Memory.writeAll, State.answer_zero]
    rfl
  | succ k ih =>
    have hb := toNat_succ (b := s.w.byteCount) rfl (by omega)
    have h1 : busStep c s = { s.xfer c.fill with
        buffer := s.buffer.write s.w.byteCount.toNat (s.answer 0)
        w.byteCount := s.w.byteCount + 1#10 } := by
      rw [busStep_disarmed c ha, hstep s hs hc, State.dataXfer, if_pos (by omega), State.memWrite,
        if_pos (by simp only [bufferLen]; omega), State.answer_zero]
      rfl
    rw [runSteps_succ c _ (by rw [hs]; rfl), h1,
      ih (by exact hs) (by exact hc) (by exact ha) (by simp only [hb]; omega), State.sendAll_with,
      List.replicate_succ (n := k + 1), State.sendAll_cons, State.answers_succ s c.fill (k + 1),
      Memory.writeAll]
    simp only [hb]
    rfl

end Sys2Proof.Machine
end

