-- ==== Sys2Proof/Tests/Slice0.lean ====
section
/-! SUPPORT. The model's own tests, expected results from spec/95_test_vectors.md and the rules, and one
witness for each statement that has hypotheses. -/

namespace Sys2Proof.Tests

open Sys2Proof Sys2Proof.Machine

/-! ## Helpers -/

/-- `n` fill bytes. -/
def fills (n : Nat) : List Byte := List.replicate n 0xFF#8

/-- The card's answers to one transaction: fill during the frame, one fill, the status, the payload. -/
def replied (status : Byte) (payload : List Byte := []) : List Byte := fills 7 ++ status :: payload

/-- The state right after reset with a card that will answer `bytes`; each `Arm` waits `delay` steps. -/
def withCard (bytes : List Byte) (delay : Nat := 1000) : State :=
  { State.reset with env := { Env.reset with cardIn := bytes, expiryIn := [delay] } }

/-- The same after a successful `Initialize` of a card of the given addressing mode. -/
def ready (mode : AddrMode) (bytes : List Byte) (delay : Nat := 1000) : State :=
  { withCard bytes delay with ds := ⟨true, mode⟩, bt := ⟨false, .fast, true⟩ }

/-- The next state, if there is one. -/
def resulting (o : Host.Outcome State Fault Refusal) : Option State :=
  match o with
  | .next t => some t
  | _ => none

/-- The refusal, if there is one. -/
def refusing (o : Host.Outcome State Fault Refusal) : Option Refusal :=
  match o with
  | .refused r => some r
  | _ => none

/-- The bytes sent. -/
def sentBytes (t : State) : List Byte := t.trace.map Event.sent

/-- One step runs the frame `w` (rows of format frame48). -/
def runs (s : State) (w : Nat) : Option State := resulting (step (s.withFetchWord 48 w))

/-- One step accepts and runs the host operation `op` (rows of format hostop2). -/
def runsOp (s : State) (op : Nat) : Option State := resulting (step (s.withFetchWord 8 op))

/-- One step accepts and runs `ReadBlock(n)`. -/
def reads (s : State) (n : Word) : Option State :=
  resulting (step { s with host.request := some ⟨1#2, n⟩ })

/-- A state in the middle of an operation. -/
def at_ (p : Pos) (q : CmdPos := .select) (s : State := State.reset) : State :=
  { s with seq := p, cmdSeq := q }

/-! ## WellFormed: the generic frame that is one of the seven specific ones is refused -/

theorem test_wf_refuses_generic_cmd0 : Instr.wf (.cmdGeneric 0#6 0#32 0x4A#7) = false := by decide
theorem test_wf_refuses_generic_cmd8 : Instr.wf (.cmdGeneric 8#6 0x1AA#32 0x43#7) = false := by decide
theorem test_wf_refuses_generic_cmd16 : Instr.wf (.cmdGeneric 16#6 512#32 0#7) = false := by decide
theorem test_wf_refuses_generic_cmd17 : Instr.wf (.cmdGeneric 17#6 7#32 0#7) = false := by decide
theorem test_wf_refuses_generic_cmd55 : Instr.wf (.cmdGeneric 55#6 0#32 0#7) = false := by decide
theorem test_wf_refuses_generic_acmd41 : Instr.wf (.cmdGeneric 41#6 0#32 0#7) = false := by decide
theorem test_wf_refuses_generic_acmd41_hcs :
    Instr.wf (.cmdGeneric 41#6 0x40000000#32 0#7) = false := by decide
theorem test_wf_refuses_generic_cmd58 : Instr.wf (.cmdGeneric 58#6 0#32 0#7) = false := by decide
theorem test_wf_takes_generic_neighbours :
    Instr.wf (.cmdGeneric 0#6 0#32 0#7) = true ∧ Instr.wf (.cmdGeneric 63#6 0xFFFFFFFF#32 0x7F#7) = true ∧
    Instr.wf (.cmdGeneric 17#6 0#32 1#7) = true := by decide

/-! ## Decoding: the words of vector V1, bit by bit from R71 (start, transmission, index, argument, check,
stop) -/

theorem test_decode_cmd0 : decode (.frame
    0b0_1_000000_00000000000000000000000000000000_1001010_1#48) = .ok .cmd0 := by decide
theorem test_decode_cmd8 : decode (.frame
    0b0_1_001000_00000000000000000000000110101010_1000011_1#48) = .ok .cmd8 := by decide
theorem test_decode_cmd16 : decode (.frame
    0b0_1_010000_00000000000000000000001000000000_0000000_1#48) = .ok .cmd16 := by decide
theorem test_decode_cmd17 : decode (.frame
    0b0_1_010001_00010010001101000101011001111000_0000000_1#48) = .ok (.cmd17 0x12345678#32) := by
  decide
theorem test_decode_cmd55 : decode (.frame
    0b0_1_110111_00000000000000000000000000000000_0000000_1#48) = .ok .cmd55 := by decide
theorem test_decode_acmd41_v2 : decode (.frame
    0b0_1_101001_01000000000000000000000000000000_0000000_1#48) = .ok (.acmd41 true) := by decide
theorem test_decode_acmd41_v1 : decode (.frame
    0b0_1_101001_00000000000000000000000000000000_0000000_1#48) = .ok (.acmd41 false) := by decide
theorem test_decode_cmd58 : decode (.frame
    0b0_1_111010_00000000000000000000000000000000_0000000_1#48) = .ok .cmd58 := by decide
theorem test_decode_generic : decode (.frame
    0b0_1_111111_11111111111111111111111111111111_1111111_1#48) =
      .ok (.cmdGeneric 63#6 0xFFFFFFFF#32 0x7F#7) := by decide
theorem test_decode_generic_index_0 : decode (.frame
    0b0_1_000000_00000000000000000000000000000000_0000001_1#48) =
      .ok (.cmdGeneric 0#6 0#32 1#7) := by decide
theorem test_decode_requests :
    decodeRequest ⟨0b00#2, 9#32⟩ = .opInitialize ∧ decodeRequest ⟨0b01#2, 9#32⟩ = .opReadBlock 9#32 ∧
    decodeRequest ⟨0b10#2, 9#32⟩ = .opIsReady ∧ decodeRequest ⟨0b11#2, 9#32⟩ = .opShutdown := by decide
theorem test_decode_refuses_start_bit :
    decodeFrame 0xC00000000095#48 = .error .startBit := by decide
theorem test_decode_refuses_transmission_bit :
    decodeFrame 0x000000000095#48 = .error .transmissionBit := by decide
theorem test_decode_refuses_stop_bit : decodeFrame 0x400000000094#48 = .error .stopBit := by decide
theorem test_decode_refuses_length :
    decodeBytes [0x40, 0, 0, 0, 0] = .error .frameLength ∧
    decodeBytes [0x40, 0, 0, 0, 0, 0x95, 0xFF] = .error .frameLength := by decide
theorem test_decode_bytes : decodeBytes [0x51, 0x12, 0x34, 0x56, 0x78, 0x01] =
    .ok (.cmd17 0x12345678#32) := by decide

/-- V1: the encoder's bytes. -/
theorem test_encode_v1 :
    frameBytes params (encodeFrame ⟨0#6, 0#32, 0x4A#7⟩) = [0x40, 0, 0, 0, 0, 0x95] ∧
    frameBytes params (encodeFrame ⟨17#6, 0xA00#32, 0#7⟩) = [0x51, 0, 0, 0x0A, 0, 0x01] ∧
    frameBytes params (encodeFrame ⟨63#6, 0xFFFFFFFF#32, 0x7F#7⟩) = [0x7F, 0xFF, 0xFF, 0xFF, 0xFF, 0xFF] ∧
    frameBytes params (encodeFrame ⟨24#6, 0#32, 0#7⟩) = [0x58, 0, 0, 0, 0, 0x01] ∧
    frameBytes params (encodeFrame ⟨0#6, 0#32, 1#7⟩) = [0x40, 0, 0, 0, 0, 0x03] := by decide

/-! ## The pure parts: V2, V4, V5 -/

/-- V2. -/
theorem test_status_v2 :
    decodeStatus 0x00#8 = .ok ∧ decodeStatus 0x01#8 = .idle ∧ decodeStatus 0x03#8 = .eraseReset ∧
    decodeStatus 0x05#8 = .illegalCommand ∧ decodeStatus 0x0F#8 = .commandCrc ∧
    decodeStatus 0x1F#8 = .eraseSequence ∧ decodeStatus 0x3F#8 = .addressError ∧
    decodeStatus 0x7F#8 = .parameter ∧ decodeStatus 0xC0#8 = .noResponse ∧
    decodeStatus 0xFE#8 = .noResponse := by decide

/-- V4, both wire orders. -/
theorem test_payload_v4 :
    assemble .msbFirst 0x00#8 0x00#8 0x01#8 0xAA#8 = 0x000001AA#32 ∧
    assemble .lsbFirst 0x00#8 0x00#8 0x01#8 0xAA#8 = 0xAA010000#32 ∧
    assemble .msbFirst 0xC0#8 0xFF#8 0x80#8 0x00#8 = 0xC0FF8000#32 := by decide

/-- V5. -/
theorem test_address_v5 :
    translate .byte 5#32 = 0xA00#32 ∧ translate .block 5#32 = 5#32 ∧
    translate .byte 0x7FFFFF#32 = 0xFFFFFE00#32 ∧ translate .byte 0x800001#32 = 0x200#32 ∧
    translate .block 0xFFFFFFFF#32 = 0xFFFFFFFF#32 := by decide

/-- R85: the codes. -/
theorem test_codes_r85 : ErrorKind.code .idle = 1#4 ∧ ErrorKind.code .generic = 8#4 ∧
    ErrorKind.code .notInitialized = 12#4 := by decide

/-! ## The card commands, one step each: V3, V6 -/

/-- V6: CMD0 answered by fill and 01: `Idle` after 8 transfers, the line restored. -/
theorem test_cmd0_idle : (runs (withCard (replied 0x01)) 0x400000000095).map
    (fun t => (t.w.kind, t.trace.length, t.bt.csAsserted, sentBytes t)) =
    some (.idle, 8, false, [0x40, 0, 0, 0, 0, 0x95, 0xFF, 0xFF]) := by decide +kernel

/-- V6: CMD0 answered by silence: `NoResponse` after 16. -/
theorem test_cmd0_silence : (runs (withCard (fills 16)) 0x400000000095).map
    (fun t => (t.w.kind, t.trace.length)) = some (.noResponse, 16) := by decide +kernel

/-- V6: CMD8 echoing: `Idle` and the payload after 12. -/
theorem test_cmd8_echo : (runs (withCard (replied 0x01 [0x00, 0x00, 0x01, 0xAA])) 0x48000001AA87).map
    (fun t => (t.w.kind, t.w.payloadHeld, t.w.payload, t.trace.length)) =
    some (.idle, true, 0x1AA#32, 12) := by decide +kernel

/-- V6: CMD8 answered 05: no payload byte is taken. -/
theorem test_cmd8_illegal : (runs (withCard (replied 0x05)) 0x48000001AA87).map
    (fun t => (t.w.kind, t.w.payloadHeld, t.trace.length)) = some (.illegalCommand, false, 8) := by
  decide +kernel

/-- R105. -/
theorem test_cmd16 : (runs (withCard (replied 0x00)) 0x500000020001).map
    (fun t => (t.w.kind, sentBytes t)) = some (.ok, [0x50, 0, 0, 0x02, 0, 0x01, 0xFF, 0xFF]) := by
  decide +kernel

/-- V6: CMD17 called with the line asserted and answered at once: 7 transfers, still asserted. -/
theorem test_cmd17_nested :
    (runs { withCard (fills 6 ++ [0x00]) with bt.csAsserted := true } 0x510000000501).map
      (fun t => (t.w.kind, t.bt.csAsserted, sentBytes t)) =
    some (.ok, true, [0x51, 0, 0, 0, 0x05, 0x01, 0xFF]) := by decide +kernel

/-- V3: the status byte is the tenth polled. -/
theorem test_cmd55_tenth : (runs (withCard (fills 15 ++ [0x01])) 0x770000000001).map
    (fun t => (t.w.kind, t.trace.length)) = some (.idle, 16) := by decide +kernel

/-- V3: the eleventh byte is never taken. -/
theorem test_cmd55_eleventh : (runs (withCard (fills 16 ++ [0x01])) 0x770000000001).map
    (fun t => (t.w.kind, t.trace.length)) = some (.noResponse, 16) := by decide +kernel

/-- R80: ACMD41 is the pair, the prefix first. -/
theorem test_acmd41_pair : (runs (withCard (replied 0x01 ++ replied 0x00)) 0x694000000001).map
    (fun t => (t.w.kind, sentBytes t)) =
    some (.ok, [0x77, 0, 0, 0, 0, 0x01, 0xFF, 0xFF, 0x69, 0x40, 0, 0, 0, 0x01, 0xFF, 0xFF]) := by
  decide +kernel

/-- R175, D14: a prefix refused by the card ends the pair. -/
theorem test_acmd41_prefix_refused : (runs (withCard (replied 0x05)) 0x690000000001).map
    (fun t => (t.w.kind, t.trace.length)) = some (.illegalCommand, 8) := by decide +kernel

/-- V4: CMD58 with the operating-conditions register of P1. -/
theorem test_cmd58 : (runs (withCard (replied 0x00 [0xC0, 0xFF, 0x80, 0x00])) 0x7A0000000001).map
    (fun t => (t.w.kind, t.w.payload, t.trace.length)) = some (.ok, 0xC0FF8000#32, 12) := by
  decide +kernel

/-- R81, V1: an index outside the table is encoded (here by a disabled transport), and not sent. -/
theorem test_generic_24 : (resulting (exec (.cmdGeneric 24#6 0#32 0#7)
      { State.reset with bt.enabled := false })).map
    (fun t => (t.env.encoded, t.w, t.seq, t.trace)) =
      some (some 0x580000000001#48, Work.reset, .idle, []) := by
  decide +kernel

/-- R80, R81, R100: a frame of index 41 that the block never sends is not sent; what an earlier command left
in `kind` stays. -/
theorem test_generic_41 : (runs { withCard [] with w.kind := .noResponse } 0x690000000101).map
    (fun t => (t.env.encoded, t.w.frame, t.w.kind, t.trace)) =
      some (some 0x690000000101#48, 0#48, .noResponse, []) := by decide +kernel

/-! ## The host operations, one step each: P1 to P11, V10 to V12 -/

/-- The card of P1: version 2, high capacity. -/
def cardP1 : List Byte := fills 12 ++ replied 0x01 ++ replied 0x01 [0x00, 0x00, 0x01, 0xAA] ++
  replied 0x01 ++ replied 0x01 ++ replied 0x01 ++ replied 0x00 ++ replied 0x00 [0xC0, 0xFF, 0x80, 0x00]

/-- The card of P2: version 1. -/
def cardP2 : List Byte :=
  fills 12 ++ replied 0x01 ++ replied 0x05 ++ replied 0x01 ++ replied 0x00 ++ replied 0x00

/-- P1: 76 transfers, block addressing, the fast divider. -/
theorem test_initialize_p1 : (runsOp (withCard cardP1) 0).map
    (fun t => (t.host.result, t.ds, t.bt, t.tg, t.trace.length)) =
    some (.ok, ⟨true, .block⟩, ⟨false, .fast, true⟩, ⟨false, false⟩, 76) := by decide +kernel

/-- P2: 52 transfers, byte addressing; never CMD58. -/
theorem test_initialize_p2 : (runsOp (withCard cardP2) 0).map (fun t => (t.host.result, t.ds, sentBytes t)) =
    some (.ok, ⟨true, .byte⟩,
      fills 12 ++ [0x40, 0, 0, 0, 0, 0x95, 0xFF, 0xFF, 0x48, 0, 0, 0x01, 0xAA, 0x87, 0xFF, 0xFF,
        0x77, 0, 0, 0, 0, 0x01, 0xFF, 0xFF, 0x69, 0, 0, 0, 0, 0x01, 0xFF, 0xFF,
        0x50, 0, 0, 0x02, 0, 0x01, 0xFF, 0xFF]) := by decide +kernel

/-- R205: the last byte of the sector, 0xFF being data there: stored at position 511, on to the trailer. -/
theorem test_read_last_data_byte :
    (resulting (step { at_ .readData with w.byteCount := 511, env.cardIn := [0xFF#8] })).map
      (fun t => (t.buffer, t.seq, sentBytes t)) = some ([(511, 0xFF#8)], .readTrailer, [0xFF]) := by
  decide +kernel

/-- P4: no token, the handler after the third transfer of the wait: `Timeout` after 11 transfers. -/
theorem test_read_p4 : (reads (ready .byte (replied 0x00 ++ fills 3) 6) 5#32).map
    (fun t => (t.host.result, t.trace.length, t.buffer, t.tg, t.bt.csAsserted)) =
    some (.err .timeout, 11, [], ⟨true, false⟩, false) := by decide +kernel

/-- P6: nested in a selected context: `true`, the line still asserted. -/
theorem test_is_ready_p6 :
    (runsOp { withCard (replied 0x00 [0xC0, 0xFF, 0x80, 0x00]) with bt.csAsserted := true } 2).map
      (fun t => (t.host.result, t.bt.csAsserted, t.trace.length)) = some (.ready true, true, 12) := by
  decide +kernel

/-- V12: silence is "not ready" after 16 transfers. -/
theorem test_is_ready_silence : (runsOp (withCard (fills 16)) 2).map
    (fun t => (t.host.result, t.trace.length)) = some (.ready false, 16) := by decide +kernel

/-- P10 step 5: `Shutdown` transfers nothing and clears the enable. -/
theorem test_shutdown : (runsOp (ready .byte []) 3).map (fun t => (t.bt, t.ds, t.trace)) =
    some (⟨false, .fast, false⟩, ⟨true, .byte⟩, []) := by decide +kernel

/-- R6, R33: from reset a host operation runs: the host's turn presents `Shutdown`, the next step runs it. -/
theorem test_host_turn : (resulting (Host.Core.run Sys2Proof.core 2 { State.reset with
      env.hostIn := [some (.request ⟨3#2, 0#32⟩)] })).map
    (fun t => (t.bt, t.host.request, t.host.result)) =
    some (⟨false, .slow, false⟩, none, .none) := by decide +kernel

/-- R9: `card_version <- v1` and `DS.addressing_mode <- byte` are two steps, the comparison part of the
first. -/
theorem test_probe_lines :
    (let s := { at_ .initS3Check with ds := ⟨false, .block⟩, w.kind := .noResponse, w.cardVersion := .v2 }
     let t := busStep params s
     (t.seq, t.w.cardVersion, t.ds.addressingMode) = (.initS3Byte, .v1, .block) ∧
     ((busStep params t).seq, (busStep params t).ds.addressingMode) = (.initS4Arm, .byte)) := by
  decide +kernel

/-- R9, R204: the token's comparison is part of the step after its transfer, the loop's test or the
`Disarm`; R149: the return of `Command` is a step after its `Restore`. -/
theorem test_token_and_return_lines :
    (∀ x ∈ [(0xFE#8, Pos.readData), (0x09#8, .readWaitXfer)],
      let t := busStep params { at_ .readWaitXfer with env.cardIn := [x.1] }
      t.seq = .readWaitCheck ∧ t.trace.length = 1 ∧ (busStep params t).seq = x.2) ∧
    (let t := busStep params { at_ .readCommand .restore with bt.csAsserted := true }
     t.seq = .readCommand ∧ t.bt.csAsserted = false ∧ (busStep params t).seq = .readStatusCheck) := by
  decide +kernel

/-- A word presented as a frame that is none is refused by name (R71). -/
theorem test_step_refuses_no_frame : refusing (step (State.reset.withFetchWord 48 0x800000000095)) =
    some (.notAFrame .startBit) := by decide +kernel

/-! ## Witnesses: for each statement with hypotheses, states and operands that meet them -/

/-- With no guard armed and no guarded wait in progress the discipline holds. -/
theorem discipline_of_idle {s : State} (ha : s.tg.armed = false) (hw : s.seq.waiting = false) :
    s.GuardDiscipline := by
  simp [State.GuardDiscipline, ha, hw]

theorem discipline_withCard (bytes : List Byte) (delay : Nat) : (withCard bytes delay).GuardDiscipline :=
  discipline_of_idle rfl rfl

theorem discipline_ready (mode : AddrMode) (bytes : List Byte) (delay : Nat) :
    (ready mode bytes delay).GuardDiscipline := discipline_of_idle rfl rfl

theorem witness_EncoderIsInjective : ∃ k k' : Command, encodeFrame k = encodeFrame k' :=
  ⟨⟨63#6, 0xFFFFFFFF#32, 0x7F#7⟩, ⟨63#6, 0xFFFFFFFF#32, 0x7F#7⟩, rfl⟩

/-- Each clause, at words with every other bit clear or set. -/
theorem witness_DecoderTakesExactlyTheFrames :
    (∃ i, decodeFrame 0x400000000001#48 = .ok i) ∧ (∃ i, decodeFrame 0x7FFFFFFFFFFF#48 = .ok i) ∧
    (0x800000000000#48).getLsbD 47 = true ∧ (0xFFFFFFFFFFFF#48).getLsbD 47 = true ∧
    ((0x3FFFFFFFFFFF#48).getLsbD 47 = false ∧ (0x3FFFFFFFFFFF#48).getLsbD 46 = false) ∧
    ((0x7FFFFFFFFFFE#48).getLsbD 47 = false ∧ (0x7FFFFFFFFFFE#48).getLsbD 46 = true ∧
      (0x7FFFFFFFFFFE#48).getLsbD 0 = false) := by
  refine ⟨⟨_, rfl⟩, ⟨_, rfl⟩, ?_⟩; decide

theorem witness_DecodeReadsBackEveryInstruction :
    Instr.wf (.cmd17 0xFFFFFFFF#32) = true ∧ Instr.wf (.cmdGeneric 0#6 0#32 0#7) = true ∧
    Instr.wf (.cmdGeneric 63#6 0xFFFFFFFF#32 0x7F#7) = true ∧ Instr.wf (.acmd41 false) = true ∧
    Instr.wf (.opReadBlock 0xFFFFFFFF#32) = true := by decide

theorem witness_EncodeGivesBackEveryFrame :
    decodeFrame 0x400000000001#48 = .ok (.cmdGeneric 0#6 0#32 0#7) ∧
    decodeFrame 0x7FFFFFFFFFFF#48 = .ok (.cmdGeneric 63#6 0xFFFFFFFF#32 0x7F#7) := by decide

/-- Every bit number, with the lower bits clear and with all of them set. -/
theorem witness_HighestStatusBitDecides : ∀ n : Fin 8, ∀ s ∈ [1#8 <<< n.val, 0xFF#8 >>> (7 - n.val)],
    s.getLsbD n = true ∧ ∀ m : Fin 8, n < m → s.getLsbD m = false := by decide

/-- An armed guard whose moment has come, and one not armed. -/
theorem witness_HandlerStepsOnlyWhileArmed :
    State.handlerDue { at_ .readWaitXfer with tg := ⟨false, true⟩ } = true ∧
    (at_ .readWaitXfer).tg.armed = false := by decide

/-- The flag rises by the handler; it falls at each of the two `Arm`s. -/
theorem witness_FlagIsSetByTheHandlerAndClearedByArm :
    (let s := { at_ .initS4Test with tg := ⟨false, true⟩ }
     s.tg.expired = false ∧ (busStep params s).tg.expired = true) ∧
    (let s := { at_ .initS4Arm with tg := ⟨true, false⟩ }
     s.tg.expired = true ∧ (busStep params s).tg.expired = false) ∧
    (let s := { at_ .readArm with tg := ⟨true, false⟩ }
     s.tg.expired = true ∧ (busStep params s).tg.expired = false) := by decide +kernel

/-- The bit falls at entry and rises at completion; the mode is written by steps 3 and 5. -/
theorem witness_OnlyInitializeWritesDriverState :
    (let s := { at_ .initEntryClear with ds := ⟨true, .block⟩ }
     (busStep params s).ds.initialized ≠ s.ds.initialized) ∧
    (let s := at_ .initDone
     (busStep params s).ds.initialized ≠ s.ds.initialized) ∧
    (let s := { at_ .initS3Byte with ds := ⟨false, .block⟩ }
     (busStep params s).ds.addressingMode ≠ s.ds.addressingMode) ∧
    (let s := { at_ .initS5Check with w.kind := .idle, w.payload := 0x40000000#32 }
     (busStep params s).ds.addressingMode ≠ s.ds.addressingMode) := by decide +kernel

theorem witness_DividerAndEnableWriters :
    (let s := { at_ .initEntryDivider with bt.divider := .fast }
     (busStep params s).bt.divider ≠ s.bt.divider) ∧
    (let s := at_ .initS7Speed
     (busStep params s).bt.divider ≠ s.bt.divider) ∧
    (let s := { at_ .initEntryEnable with bt.enabled := false }
     (busStep params s).bt.enabled ≠ s.bt.enabled) ∧
    (let s := at_ .shutDisable
     (busStep params s).bt.enabled ≠ s.bt.enabled) := by decide +kernel

/-- A select of each kind and a restore of each kind that moves the line. -/
theorem witness_OnlySelectAndRestoreMoveTheLine :
    (∀ s ∈ [at_ .initS1Select, at_ .readSelect, at_ .readyCommand],
      (busStep params s).bt.csAsserted ≠ s.bt.csAsserted) ∧
    (∀ s ∈ [at_ .initS1Restore, at_ .readRelease, at_ .readAbortRestore, at_ .initS2Reset .restore],
      (busStep params { s with bt.csAsserted := true }).bt.csAsserted ≠ true) := by decide +kernel

/-- The data phase at its first and last position, the handler not due. -/
theorem witness_BufferIsWrittenInTheDataPhaseOnly :
    ∀ n ∈ [0, 511], (let s := { at_ .readData with w.byteCount := n, env.cardIn := [0xFF#8] }
      (busStep params s).buffer ≠ s.buffer ∧ s.seq = .readData ∧ s.handlerDue = false ∧
      s.w.byteCount.toNat < 512) := by decide +kernel

/-- Each of the seven commands is sent at some position, and the generic row has its resting states. -/
theorem witness_OnlyTheSevenCommandsAreSent :
    (∀ p ∈ [Pos.initS2Reset, .initS3Probe, .initS4Prefix, .initS4Init, .initS5Ocr, .initS6Blocklen,
        .readCommand, .readyCommand, .frameCommand .readSingle, .framePrefix true, .frameInit false],
      ((at_ p).callOf params).isSome = true) ∧
    (at_ .initS4Init).seq = .initS4Init ∧
    (at_ .idle).seq.resting = true ∧ (at_ (.frameFetch 0#48)).seq.resting = true := by decide +kernel

/-- Before the first byte of the read command's frame, and in the middle of it. -/
theorem witness_FrameInFlightFitsTheCaller :
    (let s := { at_ .readCommand .send with w.cmdIndex := 17#6, w.cmdArg := 5#32, w.address := 5#32 }
     s.cmdSeq ≠ .select ∧ s.FrameFitsTheCaller) ∧
    (let s := { at_ .readCommand .send with
        w.frame := 0x510000000501#48, w.cmdIndex := 17#6, w.cmdArg := 5#32, w.address := 5#32,
        w.byteCount := 3 }
     s.cmdSeq ≠ .select ∧ s.FrameFitsTheCaller) := by
  unfold State.FrameFitsTheCaller; decide +kernel

theorem witness_CommandsFitTheCardAtEveryStep :
    State.CommandsFitTheCard { at_ .initS5Ocr with w.cardVersion := .v2 } ∧
    State.CommandsFitTheCard (at_ .initS6Blocklen) := by
  unfold State.CommandsFitTheCard; decide

theorem witness_InitializationCommandFollowsThePrefix :
    ((at_ .initS4Init).callOf params = some ⟨41#6, 0#32, 0#7⟩ ∧
      (at_ (.frameInit true)).callOf params = some ⟨41#6, 0x40000000#32, 0#7⟩) ∧
    (let s := { at_ .initS4PrefixCheck with w.kind := .idle }
     (busStep params s).seq = .initS4Init ∧ s.seq ≠ .initS4Init) ∧
    (let s := at_ .initS4Prefix .callReturn
     (busStep params s).seq = .initS4PrefixCheck ∧ s.seq ≠ .initS4PrefixCheck) ∧
    (let s := { at_ (.framePrefixCheck true) with w.kind := .idle }
     (busStep params s).seq = .frameInit true ∧ s.seq ≠ .frameInit true) ∧
    (let s := at_ (.framePrefix false) .callReturn
     (busStep params s).seq = .framePrefixCheck false ∧ s.seq ≠ .framePrefixCheck false) := by
  decide +kernel

/-- A command of each row, at `Idle` and with a frame standing. -/
theorem witness_CommandTransactionCompletes :
    (∀ i ∈ [Instr.cmd0, .cmd8, .cmd16, .cmd17 0xFFFFFFFF#32, .cmd55, .cmd58],
      (sentCommand i).isSome = true) ∧
    ∀ s ∈ [at_ .idle, at_ (.frameFetch 0x400000000095#48)],
      s.seq.resting = true ∧ s.bt.enabled = true ∧ s.GuardDiscipline := by
  unfold State.GuardDiscipline; decide

/-- Cards whose answer to the prefix is benign and not. -/
theorem witness_InitializationPairCompletes :
    (∀ s ∈ [withCard (replied 0x01), withCard (replied 0x05)],
      s.seq.resting = true ∧ s.bt.enabled = true ∧ s.GuardDiscipline) ∧
    ((withCard (replied 0x01)).reply 0 55#6).kind.benign = true ∧
    ((withCard (replied 0x05)).reply 0 55#6).kind.benign = false := by
  unfold State.GuardDiscipline; decide +kernel

/-- Entry with the line released and with it asserted. -/
theorem witness_TransactionsAreSelectedAndRestored :
    (∃ k, sentCommand .cmd58 = some k) ∧
    ∀ l, ∀ i ∈ [Instr.cmd58, .acmd41 true], ∃ s t : State, s.bt.csAsserted = l ∧ s.GuardDiscipline ∧
      exec i s = .next t := by
  refine ⟨⟨_, rfl⟩, fun l i hi => ?_⟩
  simp only [List.mem_cons, List.not_mem_nil, or_false] at hi
  rcases hi with rfl | rfl <;>
    exact ⟨{ State.reset with bt.csAsserted := l }, _, rfl, discipline_of_idle rfl rfl, rfl⟩

theorem witness_CommandsAreRefusedWhenBusyOrDisabled :
    Instr.cmd0.command ≠ none ∧ (Instr.acmd41 true).command ≠ none ∧
    (Instr.cmdGeneric 24#6 0#32 0#7).command ≠ none ∧ (∃ k, sentCommand .cmd0 = some k) ∧
    (at_ .readData).seq.resting = false ∧
    (let s := { at_ .idle with bt.enabled := false }
     s.seq.resting = true ∧ s.bt.enabled = false) := by
  refine ⟨by decide, by decide, by decide, ⟨_, rfl⟩, ?_⟩; decide

theorem witness_InitializeFollowsItsPseudocode :
    ∀ s ∈ [withCard cardP1, withCard cardP2, withCard (fills 28), { State.reset with bt.enabled := false }],
      s.seq = .idle ∧ s.bt.csAsserted = false ∧ s.GuardDiscipline := by
  unfold State.GuardDiscipline; decide

/-- Each clause: the three last steps, the completion seen as a change, and a successful run. -/
theorem witness_SpeedUpCompletesInitialize :
    ((at_ .initS7Speed).seq = .initS7Speed ∧ (at_ .initS7Speed).tg.armed = false) ∧
    ((at_ .initDone).seq = .initDone ∧ (at_ .initDone).tg.armed = false) ∧
    ((at_ .initReturn).seq = .initReturn ∧ (at_ .initReturn).tg.armed = false) ∧
    ((at_ .initDone).ds.initialized = false ∧ (busStep params (at_ .initDone)).ds.initialized = true) ∧
    ∃ s t : State, s.GuardDiscipline ∧ exec .opInitialize s = .next t ∧ t.host.result = .ok :=
  ⟨by decide, by decide, by decide, by decide +kernel,
    withCard cardP2, _, discipline_withCard _ _, rfl, by decide +kernel⟩

/-- A run that succeeds and one that fails. -/
theorem witness_InitializeIsAllOrNothing :
    (∃ s t : State, s.GuardDiscipline ∧ exec .opInitialize s = .next t ∧ t.host.result = .ok) ∧
    ∃ s t : State, s.GuardDiscipline ∧ exec .opInitialize s = .next t ∧
      t.host.result = .err .noResponse :=
  ⟨⟨withCard cardP1, _, discipline_withCard _ _, rfl, by decide +kernel⟩,
    withCard (fills 28), _, discipline_withCard _ _, rfl, by decide +kernel⟩

/-- P11 (`Ok`) and P8 (silence). -/
theorem witness_ResetCommandMustAnswerIdle :
    ∀ s ∈ [withCard (fills 12 ++ replied 0x00), withCard (fills 28)],
      s.seq = .idle ∧ s.bt.csAsserted = false ∧ s.GuardDiscipline ∧ (s.reply 12 0#6).kind ≠ .idle := by
  unfold State.GuardDiscipline; decide +kernel

/-- The card of P2, and one silent at the probe, with the shortest delay. -/
theorem witness_VersionOneCardInitializes :
    ∀ s ∈ [withCard cardP2 1, withCard (fills 12 ++ replied 0x01 ++ fills 16 ++ replied 0x00 ++
        replied 0x00 ++ replied 0x00) 1],
      let r0 := s.reply 12 0#6
      let r8 := s.reply (12 + r0.transfers) 8#6
      let r55 := s.reply (12 + r0.transfers + r8.transfers) 55#6
      let r41 := s.reply (12 + r0.transfers + r8.transfers + r55.transfers) 41#6
      let r16 := s.reply (12 + r0.transfers + r8.transfers + r55.transfers + r41.transfers) 16#6
      s.seq = .idle ∧ s.bt.csAsserted = false ∧ s.GuardDiscipline ∧ 0 < s.nextDelay ∧
      r0.kind = .idle ∧ (r8.kind = .illegalCommand ∨ r8.kind = .noResponse) ∧ r55.kind.benign = true ∧
      r41.kind = .ok ∧ r16.kind = .ok := by
  unfold State.GuardDiscipline; decide +kernel

/-- The card of P1 ready in the first round. -/
theorem witness_VersionTwoBlockCardInitializes :
    let s := withCard (fills 12 ++ replied 0x01 ++ replied 0x01 [0x00, 0x00, 0x01, 0xAA] ++
      replied 0x01 ++ replied 0x00 ++ replied 0x00 [0xC0, 0xFF, 0x80, 0x00]) 1
    let r0 := s.reply 12 0#6
    let r8 := s.reply (12 + r0.transfers) 8#6
    let r55 := s.reply (12 + r0.transfers + r8.transfers) 55#6
    let r41 := s.reply (12 + r0.transfers + r8.transfers + r55.transfers) 41#6
    let r58 := s.reply (12 + r0.transfers + r8.transfers + r55.transfers + r41.transfers) 58#6
    s.seq = .idle ∧ s.bt.csAsserted = false ∧ s.GuardDiscipline ∧ 0 < s.nextDelay ∧
    r0.kind = .idle ∧ r8.kind = .idle ∧ r8.payload = some 0x1AA#32 ∧ r55.kind.benign = true ∧
    r41.kind = .ok ∧ r58.payload = some 0xC0FF8000#32 ∧ (0xC0FF8000#32).getLsbD 30 = true := by
  unfold State.GuardDiscipline; decide +kernel

theorem witness_ReadBlockBeforeInitialize :
    State.reset.seq = .idle ∧ State.reset.bt.enabled = true ∧ State.reset.ds.initialized = false ∧
    State.reset.GuardDiscipline := by
  unfold State.GuardDiscipline; decide

/-- Before and after `Initialize`. -/
theorem witness_ReadBlockFollowsItsPseudocode :
    ∀ s ∈ [State.reset, ready .byte [], ready .block (replied 0x00) 0],
      s.seq = .idle ∧ s.bt.enabled = true ∧ s.GuardDiscipline := by
  unfold State.GuardDiscipline; decide

/-- The token as the first and as the third byte of the wait, with the shortest delay that lets it in. -/
theorem witness_ReadBlockDeliversTheSector :
    ∀ x ∈ [(ready .block (fills 6 ++ [0x00, 0xFE]) 1, 0), (ready .byte (replied 0x00 ++ [0xFF, 0x09, 0xFE]) 5, 2)],
      let r := x.1.reply 0 17#6
      x.1.seq = .idle ∧ x.1.ds.initialized = true ∧ x.1.bt.enabled = true ∧ x.1.GuardDiscipline ∧
      r.kind = .ok ∧ (∀ j, j < x.2 → x.1.answer (r.transfers + j) ≠ 0xFE#8) ∧
      x.1.answer (r.transfers + x.2) = 0xFE#8 ∧ 2 * x.2 < x.1.nextDelay := by
  unfold State.GuardDiscipline; decide +kernel

/-- P4, and the handler before the first test: no byte of the wait is taken. -/
theorem witness_ReadBlockTimesOutWithoutAToken :
    ∀ s ∈ [ready .byte (replied 0x00 ++ fills 3) 6, ready .byte (replied 0x00) 0],
      let r := s.reply 0 17#6
      s.seq = .idle ∧ s.ds.initialized = true ∧ s.bt.enabled = true ∧ s.GuardDiscipline ∧
      r.kind = .ok ∧ ∀ j, 2 * j < s.nextDelay → s.answer (r.transfers + j) ≠ 0xFE#8 := by
  intro s hs
  simp only [List.mem_cons, List.not_mem_nil, or_false] at hs
  rcases hs with rfl | rfl
  · have h3 : ∀ j < 3, State.answer (ready .byte (replied 0x00 ++ fills 3) 6)
        ((State.reply (ready .byte (replied 0x00 ++ fills 3) 6) 0 17#6).transfers + j) ≠ 0xFE#8 := by
      decide +kernel
    refine ⟨rfl, rfl, rfl, discipline_ready _ _ _, by decide +kernel, fun j hj => h3 j ?_⟩
    have : (ready .byte (replied 0x00 ++ fills 3) 6).nextDelay = 6 := rfl
    omega
  · refine ⟨rfl, rfl, rfl, discipline_ready _ _ _, by decide +kernel, fun j hj => ?_⟩
    exact absurd hj (by have : (ready .byte (replied 0x00) 0).nextDelay = 0 := rfl; omega)

/-- Entered with the line released and with it asserted. -/
theorem witness_ReadBlockHoldsAndRestoresTheLine : ∀ l, ∃ s t : State, s.bt.csAsserted = l ∧
    s.GuardDiscipline ∧ exec (.opReadBlock 5#32) s = .next t :=
  fun l => ⟨{ ready .byte [] with bt.csAsserted := l }, _, rfl, discipline_of_idle rfl rfl, rfl⟩

theorem witness_ReadBlockErrorKeepsTheBuffer : ∃ s t : State, s.GuardDiscipline ∧
    exec (.opReadBlock 5#32) s = .next t ∧ t.host.result = .err .timeout :=
  ⟨ready .byte (replied 0x00 ++ fills 3) 6, _, discipline_ready _ _ _, rfl, by decide +kernel⟩

/-- The first, the last but one and the last byte of the sector. -/
theorem witness_DataBytesAreStoredAsReceived :
    ∀ n ∈ [0, 510, 511], (let s := { at_ .readData with w.byteCount := n }
      s.seq = .readData ∧ s.tg.armed = false ∧ s.w.byteCount.toNat < 512) := by decide

theorem witness_TrailerIsDiscarded : (at_ .readTrailer).seq = .readTrailer ∧
    (at_ .readTrailer).tg.armed = false ∧ (at_ .readTrailer).w.byteCount = 0 := by decide

theorem witness_IsReadyReportsTheBusyBit :
    ∀ s ∈ [withCard (replied 0x00 [0xC0, 0xFF, 0x80, 0x00]), withCard (fills 16)],
      s.seq = .idle ∧ s.bt.enabled = true ∧ s.GuardDiscipline := by
  unfold State.GuardDiscipline; decide

/-- A card that answers a non-benign status, the line asserted at entry. -/
theorem witness_IsReadyFlattensFailuresAndKeepsTheLine : ∃ s t : State, s.GuardDiscipline ∧
    exec .opIsReady s = .next t ∧ (s.reply 0 58#6).kind.benign = false :=
  ⟨{ withCard (fills 6 ++ [0x04]) with bt.csAsserted := true }, _, discipline_of_idle rfl rfl, rfl,
    by decide +kernel⟩

theorem witness_IsReadyIgnoresDriverState : ∃ s t : State, exec .opIsReady s = .next t :=
  ⟨State.reset, _, rfl⟩

theorem witness_ShutdownDisablesTheTransport :
    ∀ s ∈ [State.reset, ready .block [], { State.reset with bt.enabled := false }],
      s.seq = .idle ∧ s.GuardDiscipline := by
  unfold State.GuardDiscipline; decide

/-- A failed `Initialize`, and a read that runs. -/
theorem witness_KindsReturnedToTheHost :
    (∃ s t : State, s.GuardDiscipline ∧ exec .opInitialize s = .next t ∧
      t.host.result = .err .invalidVoltageRange) ∧
    ∃ s t : State, s.GuardDiscipline ∧ exec (.opReadBlock 0#32) s = .next t ∧
      t.host.result = .err .notInitialized :=
  ⟨⟨withCard (fills 12 ++ replied 0x01 ++ replied 0x01 [0x00, 0x00, 0x00, 0xAA]), _,
      discipline_withCard _ _, rfl, by decide +kernel⟩,
    State.reset, _, discipline_of_idle rfl rfl, rfl, by decide +kernel⟩

/-- Each clause: busy, selected at entry, disabled (R225: after a `Shutdown`; and uninitialized), a
request presented inside an operation, a step that uses the disabled transport. -/
theorem witness_RefusalsOfTheHostOperations :
    (at_ .readData).seq ≠ .idle ∧
    (let s := { State.reset with bt.csAsserted := true }
     s.seq = .idle ∧ s.bt.csAsserted = true) ∧
    (let s := { ready .byte [] with bt.enabled := false }
     s.seq = .idle ∧ s.bt.enabled = false ∧ s.ds.initialized = true) ∧
    (let s := { State.reset with bt.enabled := false }
     s.seq = .idle ∧ s.bt.enabled = false ∧ s.ds.initialized = false) ∧
    (let s := { at_ .readData with host.request := some ⟨0#2, 0#32⟩ }
     s.seq.resting = false ∧ s.host.request = some ⟨0#2, 0#32⟩) ∧
    ∀ s ∈ [{ at_ .readData with bt.enabled := false }, { at_ .readyCommand with bt.enabled := false }],
      s.seq.resting = false ∧ s.host.request = none ∧ s.handlerDue = false ∧ s.bt.enabled = false ∧
      s.usesBus params = true := by decide +kernel

theorem witness_StepRunsTheDecodedInstruction :
    ((State.reset.withFetchWord 8 2).seq = .idle ∧
      (State.reset.withFetchWord 8 2).host.request = some ⟨2#2, 0#32⟩) ∧
    ((State.reset.withFetchWord 48 0x400000000095).seq = .frameFetch 0x400000000095#48 ∧
      decodeFrame 0x400000000095#48 = .ok .cmd0) ∧
    ((State.reset.withFetchWord 48 0x400000000094).seq = .frameFetch 0x400000000094#48 ∧
      decodeFrame 0x400000000094#48 = .error .stopBit) := by
  decide +kernel

/-- Each move of the host, the line with the transport enabled and disabled. -/
theorem witness_IdleIsTheHostsTurn :
    (∀ m ∈ [none, some (.request ⟨1#2, 7#32⟩), some (.line true), some .buffer],
      (let s := { State.reset with env.hostIn := [m] }
       s.seq = .idle ∧ s.host.request = none ∧ s.GuardDiscipline ∧ s.hostMove = m ∧
       s.bt.enabled = true)) ∧
    (let s := { State.reset with env.hostIn := [some (.line false)], bt.enabled := false }
     s.seq = .idle ∧ s.host.request = none ∧ s.GuardDiscipline ∧ s.hostMove = some (.line false) ∧
     s.bt.enabled = false) := by
  unfold State.GuardDiscipline; decide

/-- Each alternative: the data phase at its last position and the last poll; the handler's moment; and
with the transport disabled the lines that do not use it. -/
theorem witness_StepInsideAnOperationIsOneAgentStep :
    ∀ s ∈ [{ at_ .readData with w.byteCount := 511 }, { at_ .readyCommand .poll with w.pollCount := 9 },
        { at_ .readWaitXfer with tg := ⟨false, true⟩, bt.enabled := false },
        { at_ .initEntryClear with bt.enabled := false }, { at_ .shutDisable with bt.enabled := false },
        { at_ .readCheck with bt.enabled := false }],
      s.seq.resting = false ∧ s.host.request = none ∧
      (s.handlerDue = true ∨ s.bt.enabled = true ∨ s.usesBus params = false) ∧
      s.CountersInRange := by
  unfold State.CountersInRange; decide +kernel

theorem witness_EveryOperationReturns : ∃ s t : State, s.GuardDiscipline ∧ exec .opInitialize s = .next t :=
  ⟨State.reset, _, discipline_of_idle rfl rfl, rfl⟩

theorem witness_ExecIsARunOfSteps : ∃ s t : State, s.GuardDiscipline ∧ s.host.request = none ∧
    exec (.opReadBlock 5#32) s = .next t :=
  ⟨ready .byte (replied 0x00), _, discipline_ready _ _ _, rfl, rfl⟩

theorem witness_FlagBeforeAnOperationIsNotRead : ∃ s t : State, s.GuardDiscipline ∧
    exec .opInitialize s = .next t :=
  ⟨{ State.reset with tg := ⟨true, false⟩ }, _, discipline_of_idle rfl rfl, rfl⟩

/-- Inside a guarded wait, armed. -/
theorem witness_StepKeepsGuardDiscipline : ∃ s t : State, s.GuardDiscipline ∧ step s = .next t ∧
    s.tg.armed = true :=
  ⟨{ at_ .readWaitTest with tg := ⟨false, true⟩, env.countdown := 3 }, _,
    by simp [State.GuardDiscipline, at_, Pos.guarded], rfl, rfl⟩

/-- The last byte of the sector, other positions of the buffer written. -/
theorem witness_StepKeepsCountersAndBuffer : ∃ s t : State, s.CountersInRange ∧
    Memory.wf s.buffer = true ∧ step s = .next t ∧ s.buffer ≠ [] :=
  ⟨{ at_ .readData with w.byteCount := 511, buffer := [(0, 1#8), (510, 2#8)] }, _,
    by unfold State.CountersInRange; decide, by decide, rfl, by decide⟩

/-- Inside CMD17's transaction, the line asserted. -/
theorem witness_StepKeepsLineDiscipline : ∃ s t : State, s.LineDiscipline ∧ step s = .next t ∧
    s.bt.csAsserted = true :=
  ⟨{ at_ .readCommand .restore with bt.csAsserted := true, w.priorInner := true }, _,
    by simp [State.LineDiscipline, at_, Pos.line, Pos.isCall], rfl, rfl⟩

theorem witness_NegotiatingDriverIsUninitialized : ∃ s t : State,
    s.UninitializedWhileNegotiating ∧ step s = .next t ∧ t.seq.negotiating = true :=
  ⟨{ at_ .initEntryClear with ds := ⟨true, .byte⟩ }, _,
    by simp [State.UninitializedWhileNegotiating, at_, Pos.negotiating], rfl, by decide +kernel⟩

theorem witness_StepNeverFaults : State.CountersInRange { at_ .readData with w.byteCount := 511 } := by
  unfold State.CountersInRange; decide

end Sys2Proof.Tests
end

section
/-! PROOFS. The host's turn at `Idle` (O49), one step of the machine inside an operation (O50), and the run
of such steps that `exec` makes at once (O52). -/

namespace Sys2Proof.Machine

/-! ## The host's turn -/

/-- Outside the two waits the guard is not armed (R277). -/
theorem State.GuardDiscipline.disarmed {s : State} (h : s.GuardDiscipline)
    (hp : s.seq.guarded = false) : s.tg.armed = false := by
  obtain ⟨-, harmed, -⟩ := h
  cases ha : s.tg.armed with
  | false => rfl
  | true => exact absurd (harmed ha) (by simp [hp])

/-- At `Idle` with no request presented the host has its turn: the guard has no step of its own there. -/
theorem step_of_idle {s : State} (hidle : s.seq = .idle) (hreq : s.host.request = none)
    (hg : s.GuardDiscipline) : step s = hostStep s := by
  have hd : s.tg.armed = false := hg.disarmed (by rw [hidle]; rfl)
  simp [step, hidle, idleStep, hreq, s.handlerDue_of_disarmed hd, s.tick_of_disarmed hd]

/-- Settles O49: the step is `hostStep`, taken move by move. -/
theorem idleIsTheHostsTurn : Obligations.IdleIsTheHostsTurn := by
  intro s hidle hreq hg
  rw [step_of_idle hidle hreq hg]
  refine ⟨fun hm => ?_, fun r hm => ?_, fun l hm => ⟨fun he => ?_, fun he => ?_⟩, fun hm => ?_, rfl⟩
  · simp [hostStep, hm]
  · simp [hostStep, hm, State.present]
  · simp [hostStep, hm, he, State.hostLine]
  · simp [hostStep, hm, he]
  · simp [hostStep, hm, State.newBuffer]

/-! ## One step inside an operation -/

/-- Away from `Idle` and `frameFetch` a step of the machine is one inside an operation. -/
theorem step_of_inside {s : State} (h : s.seq.resting = false) : step s = progressStep s := by
  unfold step
  split
  · next hq => simp [hq, Pos.resting] at h
  · next hq => simp [hq, Pos.resting] at h
  · rfl

/-- Inside an operation nothing is refused and nothing faults: one agent takes its step (R9). -/
theorem progressStep_eq_busStep {s : State} (hreq : s.host.request = none)
    (hbus : s.handlerDue = true ∨ s.bt.enabled = true ∨ s.usesBus params = false)
    (hbyte : s.w.byteCount.toNat < bufferLen) : progressStep s = .next (busStep params s) := by
  unfold progressStep
  rw [hreq]
  cases hd : s.handlerDue with
  | true => simp
  | false =>
    have hok : (s.usesBus params && !s.bt.enabled) = false := by
      rcases hbus with h | h | h
      · simp [hd] at h
      · simp [h]
      · simp [h]
    simp [hok, hbyte]

/-- Settles O50: the counters' premise keeps the step from the fault, the others from the refusals. -/
theorem stepInsideAnOperationIsOneAgentStep : Obligations.StepInsideAnOperationIsOneAgentStep := by
  intro s hrest hreq hbus hcounters
  obtain ⟨-, -, hbyte⟩ := hcounters
  rw [step_of_inside hrest]
  exact progressStep_eq_busStep hreq hbus hbyte

/-! ## What keeps a run of single steps going -/

/-- The positions a run can stand at with the transport disabled: `Initialize` up to its `Enable()`,
`Shutdown`, and the rest that it returns to. -/
def Pos.runsDisabled : Pos → Bool
  | .initEntryClear => true
  | .initEntryEnable => true
  | .shutDisable => true
  | .shutReturn => true
  | .idle => true
  | _ => false

/-- What every agent's step keeps inside an operation, and what keeps the machine's step from its refusals
and its fault: no request is presented, the transport is there for every line that uses it, and
`byte_count` names a position of the buffer. -/
def State.Progressing (s : State) : Prop :=
  s.host.request = none ∧ (s.bt.enabled = true ∨ s.seq.runsDisabled = true) ∧
  s.w.byteCount.toNat < bufferLen

/-- Where the transport may be disabled no pure computation moves the position. -/
theorem computed_seq_of_runsDisabled (c : Params) {s : State} (h : s.seq.runsDisabled = true) :
    (s.computed c).seq = s.seq := by
  have hp : s.seq.isPure = false := by
    cases hq : s.seq <;> simp [hq, Pos.runsDisabled] at h <;> rfl
  rw [State.computed_seq, operationDecision_of_line s c hp]

/-- Where the transport may be disabled the next line does not use it (R159). -/
theorem usesBus_of_runsDisabled (c : Params) {s : State} (h : s.seq.runsDisabled = true) :
    s.usesBus c = false := by
  unfold State.usesBus State.lineUsesBus
  rw [callOf_isSome, computed_seq_of_runsDisabled c h]
  cases hq : s.seq <;> simp [hq, Pos.runsDisabled] at h <;> rfl

/-- A progressing state takes an agent's step. -/
theorem State.Progressing.step_eq {s : State} (h : s.Progressing) (hrest : s.seq.resting = false) :
    step s = .next (busStep params s) := by
  obtain ⟨hreq, hbus, hbyte⟩ := h
  rw [step_of_inside hrest]
  exact progressStep_eq_busStep hreq (.inr (hbus.imp_right (usesBus_of_runsDisabled params))) hbyte

/-- A line switches the transport on and off by `Enable` and `Disable` only (R29, R147). -/
theorem lineStep_enabled (c : Params) (s : State) : (lineStep c s).bt.enabled =
    match s.seq with
    | .initEntryEnable => true
    | .shutDisable => false
    | _ => s.bt.enabled := by
  rw [lineStep_bt]
  cases s.seq <;> simp only <;> (repeat' split) <;> rfl

/-- A line leaves the transport there for the next line, if that uses it. -/
theorem lineStep_transport (c : Params) {s : State}
    (h : s.bt.enabled = true ∨ s.seq.runsDisabled = true) :
    (lineStep c s).bt.enabled = true ∨ (lineStep c s).seq.runsDisabled = true := by
  have hnext := lineStep_seq_mem s c
  rw [lineStep_enabled]
  cases hd : s.seq.runsDisabled with
  | false =>
    have he : s.bt.enabled = true := h.resolve_right (by simp [hd])
    cases hq : s.seq <;> simp [hq, Pos.runsDisabled] at hd <;> exact .inl he
  | true =>
    cases hq : s.seq <;> simp [hq, Pos.runsDisabled] at hd <;>
      simp only [hq, Pos.successors, List.mem_singleton] at hnext <;> simp [hnext, Pos.runsDisabled]

/-- What `byte_count` holds after one of the `n` transfers it counts: 0 after the last (log entry 31). -/
def countedOn (n : Nat) (b : BitVec 10) : BitVec 10 := if b.toNat + 1 < n then b + 1#10 else 0#10

theorem countedOn_lt (b : BitVec 10) {n : Nat} (hn : n ≤ bufferLen) :
    (countedOn n b).toNat < bufferLen := by
  unfold countedOn
  unfold bufferLen at *
  split
  · rw [toNat_succ rfl (by omega)]; omega
  · decide

/-- What a step of a transaction does to `byte_count` (R31, R149). -/
theorem transactionStep_byteCount (c : Params) (k : Command) (s : State) :
    (transactionStep c k s).w.byteCount =
      match s.cmdSeq with
      | .select => 0#10
      | .send => countedOn c.frameLen s.w.byteCount
      | .payload =>
        if s.w.byteCount.toNat + 1 < c.payloadBytes then s.w.byteCount + 1#10 else s.w.byteCount
      | .callReturn => 0#10
      | _ => s.w.byteCount := by
  cases hq : s.cmdSeq <;> simp only [transactionStep, hq]
  case send => rw [State.cmdSend_w, countedOn]
  case payload => rw [State.cmdPayload_w]; dsimp only; split <;> rfl
  all_goals rfl

/-- What the step of a line outside a transaction does to `byte_count` (R31, R172, R205, R206). -/
theorem lineStep_byteCount (c : Params) {s : State} (h : s.callOf c = none) :
    (lineStep c s).w.byteCount =
      match s.seq with
      | .initS1High => countedOn c.powerOnFillHigh s.w.byteCount
      | .initS1Low => countedOn c.powerOnFillLow s.w.byteCount
      | .readData => countedOn c.sectorLen s.w.byteCount
      | .readTrailer => countedOn c.trailerLen s.w.byteCount
      | .frameReturn => 0#10
      | .initReturn => 0#10
      | .initFail => 0#10
      | .readReturn => 0#10
      | .readFail => 0#10
      | .readyReport => 0#10
      | .shutReturn => 0#10
      | _ => s.w.byteCount := by
  cases hq : s.seq <;> simp [State.callOf, hq] at h <;>
    simp [lineStep, State.callOf, hq, frameStep, initStep, readStep, queryStep, Work.reset, countedOn,
      State.negotiationTest_eq, State.waitTest_eq]
  case initS4Test | readWaitTest => split <;> rfl

/-- A transaction keeps `byte_count` a position of the buffer (R31). -/
theorem transactionStep_byteCount_lt (k : Command) {s : State} (h : s.w.byteCount.toNat < bufferLen) :
    (transactionStep params k s).w.byteCount.toNat < bufferLen := by
  rw [transactionStep_byteCount]
  split
  · decide
  · exact countedOn_lt _ (by decide)
  · split
    · next hlt =>
      have h4 : s.w.byteCount.toNat + 1 < 4 := hlt
      rw [toNat_succ rfl (by omega)]
      unfold bufferLen
      omega
    · exact h
  · decide
  · exact h

/-- A line keeps `byte_count` a position of the buffer (R31). -/
theorem lineStep_byteCount_lt {s : State} (h : s.w.byteCount.toNat < bufferLen) :
    (lineStep params s).w.byteCount.toNat < bufferLen := by
  cases hk : s.callOf params with
  | some k => rw [lineStep_of_call s params hk]; exact transactionStep_byteCount_lt k h
  | none =>
    rw [lineStep_byteCount params hk]
    split
    case h_1 | h_2 | h_3 | h_4 => exact countedOn_lt _ (by decide)
    case h_12 => exact h
    all_goals decide

/-- The pure computations keep a state progressing. -/
theorem State.Progressing.computed {s : State} (h : s.Progressing) : (s.computed params).Progressing := by
  obtain ⟨hreq, hbus, hbyte⟩ := h
  refine ⟨by simpa using hreq, ?_, by simpa using hbyte⟩
  rw [State.computed_bt]
  exact hbus.imp_right fun hd => by rwa [computed_seq_of_runsDisabled params hd]

/-- The step of a line keeps a state progressing. -/
theorem State.Progressing.lineStep {s : State} (h : s.Progressing) :
    (lineStep params s).Progressing := by
  obtain ⟨hreq, hbus, hbyte⟩ := h
  refine ⟨?_, lineStep_transport params hbus, lineStep_byteCount_lt hbyte⟩
  rw [lineStep_host]
  split <;> exact hreq

/-- Every agent's step keeps a state progressing. -/
theorem State.Progressing.busStep {s : State} (h : s.Progressing) : (busStep params s).Progressing := by
  rcases busStep_cases params s with ⟨-, e⟩ | ⟨-, e⟩
  · rw [e]; exact h
  · have htick : s.tick.Progressing := by
      obtain ⟨hreq, hbus, hbyte⟩ := h
      exact ⟨by simpa using hreq, by simpa using hbus, by simpa using hbyte⟩
    rw [e]
    cases hr : s.tick.seq.resting with
    | false => rw [sequencerStep_eq params hr]; exact htick.computed.lineStep
    | true => rw [sequencerStep_resting params hr]; exact htick

/-! ## The run of single steps -/

/-- A run of the machine takes the next step first. -/
theorem coreRun_succ {s s' : State} (h : step s = .next s') (n : Nat) :
    Host.Core.run Sys2Proof.core (n + 1) s = Host.Core.run Sys2Proof.core n s' := by
  have hs : Host.Core.step Sys2Proof.core s = .next s' := h
  simp only [Host.Core.run, hs]

/-- The agents' steps up to a rest are a run of the machine's steps. -/
theorem State.Progressing.exists_coreRun {s : State} (h : s.Progressing) (m : Nat) :
    ∃ n, Host.Core.run Sys2Proof.core n s = .next (runSteps params m s) := by
  induction m generalizing s with
  | zero => exact ⟨0, rfl⟩
  | succ m ih =>
    cases hrest : s.seq.resting with
    | true => exact ⟨0, by rw [runSteps_resting params _ hrest]; rfl⟩
    | false =>
      obtain ⟨n, hn⟩ := ih h.busStep
      exact ⟨n + 1, by rw [coreRun_succ (h.step_eq hrest), hn, runSteps_succ params m hrest]⟩

/-! ## What `exec` runs -/

/-- An operation that begins with empty counters, the transport there if its first line uses it, progresses. -/
theorem progressing_startAt {p : Pos} {w : Work} {s : State} (hreq : s.host.request = none)
    (hbus : s.bt.enabled = true ∨ p.runsDisabled = true) (hw : w.byteCount = 0#10) :
    (s.startAt p w).Progressing :=
  ⟨hreq, hbus, by rw [State.startAt_w, hw]; decide⟩

/-- Everything `Initialize` can answer (R171). -/
theorem execInitialize_next {s t : State} : execInitialize s = .next t ↔
    s.seq = .idle ∧ s.bt.csAsserted = false ∧ s.runFrom params .initEntryClear Work.reset = t := by
  unfold execInitialize State.whenIdle
  cases hcs : s.bt.csAsserted <;> by_cases hq : s.seq = .idle <;> simp [hq]

/-- What `exec` answers for an instruction: the state it begins in, or what the agents' steps reach from
there. -/
theorem exec_next {i : Instr} {s t : State} (hreq : s.host.request = none) (h : exec i s = .next t) :
    s.begun i = t ∨ (s.begun i).Progressing ∧ ∃ m, runSteps params m (s.begun i) = t := by
  have alone : ∀ {p w}, w.byteCount = 0#10 → s.callAlone (s.runFrom params p w) = .next t →
      (s.startAt p w).Progressing ∧ ∃ m, runSteps params m (s.startAt p w) = t := by
    intro p w hw h
    obtain ⟨-, he, hrun⟩ := callAlone_next.1 h
    exact ⟨progressing_startAt hreq (.inl he) hw, _, hrun⟩
  cases i with
  | cmd0 => exact .inr (alone rfl h)
  | cmd8 => exact .inr (alone rfl h)
  | cmd16 => exact .inr (alone rfl h)
  | cmd17 address => exact .inr (alone rfl h)
  | cmd55 => exact .inr (alone rfl h)
  | acmd41 hcs => exact .inr (alone rfl h)
  | cmd58 => exact .inr (alone rfl h)
  | cmdGeneric index arg check => exact .inl (whenResting_next.1 h).2
  | opInitialize =>
    obtain ⟨-, -, hrun⟩ := execInitialize_next.1 h
    exact .inr ⟨progressing_startAt hreq (.inr rfl) rfl, _, hrun⟩
  | opReadBlock blockNumber =>
    obtain ⟨-, he, hrun⟩ := whenEnabled_next.1 h
    exact .inr ⟨progressing_startAt hreq (.inl he) rfl, _, hrun⟩
  | opIsReady =>
    obtain ⟨-, he, hrun⟩ := whenEnabled_next.1 h
    exact .inr ⟨progressing_startAt hreq (.inl he) rfl, _, hrun⟩
  | opShutdown => exact .inr ⟨progressing_startAt hreq (.inr rfl) rfl, _, (whenIdle_next.1 h).2⟩

/-- Settles O52: the generic row takes no step; every other instruction begins in a progressing state, and
from there each agent's step is one step of the machine. -/
theorem execIsARunOfSteps : Obligations.ExecIsARunOfSteps := by
  intro i s t _ hreq hexec
  rcases exec_next hreq hexec with hbegun | ⟨hprog, m, hrun⟩
  · exact ⟨0, congrArg Host.Outcome.next hbegun⟩
  · obtain ⟨n, hn⟩ := hprog.exists_coreRun m
    exact ⟨n, by rw [hn, hrun]⟩

end Sys2Proof.Machine
end

section
/-! PROOFS. What every step of the machine keeps, said once, and the small facts about lines, places and
working registers that the statements of 10_state.md share. -/

namespace Sys2Proof.Machine

/-! ## What every step of the machine keeps -/

/-- What `exec` answers is a run of agents' steps from the state the instruction begins in; `Initialize`
begins with the line released only (R171). -/
theorem exec_next_run {i : Instr} {s t : State} (h : exec i s = .next t) :
    (i = .opInitialize → s.bt.csAsserted = false) ∧ ∃ m, runSteps params m (s.begun i) = t := by
  have alone : ∀ {p w}, s.callAlone (s.runFrom params p w) = .next t →
      ∃ m, runSteps params m (s.startAt p w) = t :=
    fun h => ⟨_, (callAlone_next.1 h).2.2⟩
  cases i with
  | cmd0 => exact ⟨nofun, alone h⟩
  | cmd8 => exact ⟨nofun, alone h⟩
  | cmd16 => exact ⟨nofun, alone h⟩
  | cmd17 address => exact ⟨nofun, alone h⟩
  | cmd55 => exact ⟨nofun, alone h⟩
  | acmd41 hcs => exact ⟨nofun, alone h⟩
  | cmd58 => exact ⟨nofun, alone h⟩
  | cmdGeneric index arg check => exact ⟨nofun, 0, (whenResting_next.1 h).2⟩
  | opInitialize =>
    obtain ⟨-, hcs, hrun⟩ := execInitialize_next.1 h
    exact ⟨fun _ => hcs, _, hrun⟩
  | opReadBlock blockNumber => exact ⟨nofun, _, (whenEnabled_next.1 h).2.2⟩
  | opIsReady => exact ⟨nofun, _, (whenEnabled_next.1 h).2.2⟩
  | opShutdown => exact ⟨nofun, _, (whenIdle_next.1 h).2⟩

/-- What everything a step of the machine is made of keeps: the acceptance of a request, the host's
turn, the beginning of an instruction, and an agent's step by its parts. -/
structure KeptByParts (P : State → Prop) : Prop where
  /-- A request is presented or accepted (R33). -/
  request : ∀ s r, P s → P { s with host.request := r }
  /-- The environment moves on (R6). -/
  env : ∀ s e, P s → P { s with env := e }
  /-- The expiry handler takes its step (R156). -/
  handler : ∀ s, P s → P s.expiryHandler
  /-- The host has its turn. -/
  host : ∀ s t, s.seq = .idle → P s → hostStep s = .next t → P t
  /-- An instruction begins, `Initialize` with the line released. -/
  begun : ∀ i s, (i = .opInitialize → s.bt.csAsserted = false) → P s → P (s.begun i)
  /-- The pure computations of the next step are made (R9). -/
  computed : ∀ s, P s → P (s.computed params)
  /-- The line computed is performed. -/
  line : ∀ s, P s → P (lineStep params s)

namespace KeptByParts

variable {P : State → Prop} {s t : State} (h : KeptByParts P)
include h

theorem tick (hs : P s) : P s.tick := by
  unfold State.tick
  split
  · exact h.env s _ hs
  · exact hs

theorem busStep (hs : P s) : P (busStep params s) := by
  rcases busStep_cases params s with ⟨-, e⟩ | ⟨-, e⟩
  · rw [e]; exact h.handler s hs
  · rw [e]
    cases hr : s.tick.seq.resting with
    | false => rw [sequencerStep_eq params hr]; exact h.line _ (h.computed _ (h.tick hs))
    | true => rw [sequencerStep_resting params hr]; exact h.tick hs

theorem exec {i : Instr} (hs : P s) (hexec : exec i s = .next t) : P t := by
  obtain ⟨hcs, m, hrun⟩ := exec_next_run hexec
  rw [← hrun]
  exact runSteps_preserves params (P := P) (fun _ => h.busStep) m (h.begun i s hcs hs)

/-- What the parts keep, every step of the machine keeps. -/
theorem step (hs : P s) (hstep : step s = .next t) : P t := by
  unfold Machine.step at hstep
  split at hstep
  · next hidle =>
    cases hreq : s.host.request with
    | none =>
      rcases idleStep_next hreq hstep with ⟨-, e⟩ | ⟨-, hhost⟩
      · rw [e]; exact h.handler s hs
      · exact h.host _ _ (by rw [State.tick_seq, hidle]) (h.tick hs) hhost
    | some r =>
      simp only [idleStep, hreq] at hstep
      exact h.exec (h.request s none hs) hstep
  · next w hfetch =>
    unfold fetchStep at hstep
    split at hstep
    · exact h.exec hs hstep
    · cases hstep
  · rw [(progressStep_next hstep).1]
    exact h.busStep hs

end KeptByParts

/-! ## Lines -/

/-- The lines a pure computation leads to (R9); every other line is reached from a step only. -/
def Pos.isDecided : Pos → Bool
  | .frameInit _ => true
  | .frameReturn => true
  | .initS3Probe => true
  | .initS3V2 => true
  | .initS3V1 => true
  | .initS4Test => true
  | .initS4Init => true
  | .initS4Disarm => true
  | .initS5Ocr => true
  | .initS5Mode => true
  | .initS6Blocklen => true
  | .initS7Speed => true
  | .initAbort => true
  | .initFail => true
  | .readSelect => true
  | .readArm => true
  | .readWaitTest => true
  | .readWaitDisarm => true
  | .readAbortRestore => true
  | .readFail => true
  | _ => false

theorem isDecided_of_mem_decisions {q : Pos} (hq : q.isPure = true) :
    ∀ p ∈ q.decisions, p.isDecided = true := by
  cases q <;> simp [Pos.isPure] at hq <;> simp [Pos.decisions, Pos.isDecided]

/-- Where no pure computation leads, the line computed is the position itself. -/
theorem State.seq_of_computed (c : Params) {s : State} {p : Pos} (h : (s.computed c).seq = p)
    (hp : p.isDecided = false) : s.seq = p := by
  cases hs : s.seq.isPure with
  | false => rwa [State.computed_seq, operationDecision_of_line s c hs] at h
  | true =>
    have hmem := isDecided_of_mem_decisions hs _ (s.computed_seq_mem c)
    rw [h, hp] at hmem
    cases hmem

/-- A pure computation leads to lines of the same chip-select level. -/
theorem line_of_mem_decisions (q : Pos) : ∀ p ∈ q.decisions, p.line = q.line := by
  cases q <;> simp [Pos.decisions, Pos.line]

theorem line_afterCall {p : Pos} (h : p.isCall = true) : p.afterCall.line = p.line := by
  cases p <;> simp [Pos.isCall] at h <;> rfl

end Sys2Proof.Machine
end

section
/-! PROOFS. The chip-select discipline (O58): what a transaction and every other line do to the line and to
the saved levels. -/

namespace Sys2Proof.Machine

variable (c : Params)

/-! ## The places and the saved level of a transaction -/

/-- The place a step of a transaction leads to (R149). -/
theorem transactionStep_cmdSeq (k : Command) (s : State) : (transactionStep c k s).cmdSeq =
    match s.cmdSeq with
    | .select => .send
    | .send => if s.w.byteCount.toNat + 1 < c.frameLen then .send else .poll
    | .poll => .polled
    | .polled => .polled
    | .pollReturn => .statusReturn
    | .statusReturn => .statusTaken
    | .statusTaken => .statusTaken
    | .payload => if s.w.byteCount.toNat + 1 < c.payloadBytes then .payload else .payloadReturn
    | .payloadReturn => .restore
    | .restore => .callReturn
    | .callReturn => .select := by
  cases hq : s.cmdSeq <;> simp [transactionStep, hq]

/-- A transaction saves the level at its `Select` and forgets it at its return (R140, R124). -/
theorem transactionStep_priorInner (k : Command) (s : State) :
    (transactionStep c k s).w.priorInner =
      match s.cmdSeq with
      | .select => s.bt.csAsserted
      | .callReturn => false
      | _ => s.w.priorInner := by
  cases hq : s.cmdSeq <;> simp only [transactionStep, hq]
  case send => rw [State.cmdSend_w]
  case payload => rw [State.cmdPayload_w]; dsimp only; split <;> rfl
  all_goals rfl

/-- The pure computations stay on their side of a transaction's `Select` and `Restore`. -/
theorem State.computed_selected (s : State) : (s.computed c).cmdSeq.selected = s.cmdSeq.selected := by
  rw [State.computed, commandDecision_cmdSeq, operationDecision_cmdSeq]
  cases s.cmdSeq <;> simp only <;> (try split) <;> rfl

/-! ## The level a line leaves -/

/-- The level that the lines after a position fix, where they fix one: that of the position itself, but
after a `Select` or a `Restore` of the operation (R172, R203). -/
theorem line_of_mem_successors (q : Pos) : ∀ p ∈ q.successors, p.line = none ∨ p.line =
    match q with
    | .initS1Select => some true
    | .initS1Restore => some false
    | .readSelect => some true
    | .readRelease => none
    | .readAbortRestore => none
    | q => q.line := by
  cases q <;> simp [Pos.successors, Pos.line]

/-- Outside a transaction the line is moved by the operation's own `Select` and `Restore` only. -/
theorem lineStep_csAsserted {s : State} (hcall : s.seq.isCall = false) : (lineStep c s).bt.csAsserted =
    match s.seq with
    | .initS1Select => true
    | .readSelect => true
    | .initS1Restore => s.w.priorOuter
    | .readRelease => s.w.priorOuter
    | .readAbortRestore => s.w.priorOuter
    | _ => s.bt.csAsserted := by
  rw [lineStep_bt]
  cases hq : s.seq <;> simp_all [Pos.isCall]

/-- A line outside a transaction leaves the chip-select at the level that the next position fixes. -/
theorem lineStep_line {s : State} (hcall : s.seq.isCall = false)
    (hout : ∀ l, s.seq.line = some l → s.bt.csAsserted = l)
    (hprior : s.seq = .initS1Low ∨ s.seq = .initS1Restore → s.w.priorOuter = false) :
    ∀ l, (lineStep c s).seq.line = some l → (lineStep c s).bt.csAsserted = l := by
  intro l hl
  have hnext := line_of_mem_successors _ _ (lineStep_seq_mem s c)
  rw [hl] at hnext
  rw [lineStep_csAsserted c hcall]
  split
  case h_6 => exact hout l (by simp_all)
  all_goals simp_all

/-- Step 1 is entered by its `Select` only. -/
theorem step1_of_mem_successors (q : Pos) : ∀ p ∈ q.successors, p = .initS1Low ∨ p = .initS1Restore →
    q = .initS1Select ∨ q = .initS1Low ∨ q = .initS1Restore := by
  cases q <;> simp [Pos.successors]

/-- Step 1 saves the level that its position fixes, a released line, and keeps it to its `Restore` (R172). -/
theorem lineStep_priorOuter {s : State} (hout : ∀ l, s.seq.line = some l → s.bt.csAsserted = l)
    (hprior : s.seq = .initS1Low ∨ s.seq = .initS1Restore → s.w.priorOuter = false)
    (h : (lineStep c s).seq = .initS1Low ∨ (lineStep c s).seq = .initS1Restore) :
    (lineStep c s).w.priorOuter = false := by
  rcases step1_of_mem_successors _ _ (lineStep_seq_mem s c) h with hq | hq | hq
  · have hcs : s.bt.csAsserted = false := hout _ (by rw [hq]; rfl)
    simp [lineStep, State.callOf, hq, initStep, hcs]
  · have hp := hprior (.inl hq)
    simp [lineStep, State.callOf, hq, initStep, hp]
  · have hp := hprior (.inr hq)
    simp [lineStep, State.callOf, hq, initStep, hp]

/-! ## The discipline -/

namespace State

/-- Between a transaction's `Select` and its `Restore` the discipline asks for two levels. -/
theorem lineDiscipline_of_selected {s : State} (hcall : s.seq.isCall = true)
    (hsel : s.cmdSeq.selected = true) (hcs : s.bt.csAsserted = true)
    (hprior : ∀ l, s.seq.line = some l → s.w.priorInner = l) : s.LineDiscipline := by
  refine ⟨fun h => absurd hsel (by simp [h]), fun _ => ⟨hcs, hprior⟩, fun _ => hcall, fun h => ?_⟩
  rcases h with h | h <;> simp [h, Pos.isCall] at hcall

/-- On the other side of them it asks for the level of the position and, in step 1, for the saved one. -/
theorem lineDiscipline_of_released {s : State} (hplace : s.cmdSeq = .select ∨ s.seq.isCall = true)
    (hsel : s.cmdSeq.selected = false)
    (hout : ∀ l, s.seq.line = some l → s.bt.csAsserted = l)
    (hprior : s.seq = .initS1Low ∨ s.seq = .initS1Restore → s.w.priorOuter = false) :
    s.LineDiscipline :=
  ⟨fun _ => hout, fun h => by simp [hsel] at h, hplace.resolve_left, hprior⟩

/-- An instruction begins outside a transaction, at a line whose level nothing fixes; `Initialize` begins
at a released line (R171). -/
theorem lineDiscipline_begun {s : State} (i : Instr)
    (hcs : i = .opInitialize → s.bt.csAsserted = false) : (s.begun i).LineDiscipline := by
  cases i <;> refine lineDiscipline_of_released (.inl rfl) rfl ?_ (by simp [State.begun])
  case opInitialize =>
    intro l hl
    rw [← Option.some.inj (hl : some false = some l)]
    exact hcs rfl
  all_goals exact nofun

namespace LineDiscipline

variable {s : State} (h : s.LineDiscipline)
include h

theorem place_of_not_isCall (hcall : s.seq.isCall = false) : s.cmdSeq = .select := by
  obtain ⟨-, -, hplace, -⟩ := h
  by_contra hne
  simp [hplace hne] at hcall

/-- The pure computations move the position among lines of one level. -/
theorem computed : (s.computed c).LineDiscipline := by
  have hline : (s.computed c).seq.line = s.seq.line := line_of_mem_decisions _ _ (s.computed_seq_mem c)
  obtain ⟨hout, hin, hplace, hprior⟩ := h
  refine ⟨fun hsel => ?_, fun hsel => ?_, fun hne => ?_, fun hlow => ?_⟩
  · rw [State.computed_selected] at hsel
    simpa [hline] using hout hsel
  · rw [State.computed_selected] at hsel
    simpa [hline] using hin hsel
  · have hcall : s.seq.isCall = true := hplace fun h => hne (s.computed_cmdSeq_of_select c h)
    rw [State.computed_seq, operationDecision_of_line s c (isPure_of_isCall hcall)]
    exact hcall
  · rw [State.computed_priorOuter]
    exact hprior (hlow.imp (State.seq_of_computed c · rfl) (State.seq_of_computed c · rfl))

/-- A transaction asserts the line over the level it saves, and puts that level back (R149, R150). -/
theorem lineStep_at_call (hcall : s.seq.isCall = true) : (lineStep c s).LineDiscipline := by
  obtain ⟨hout, hin, -, -⟩ := h
  have hlow : ¬((lineStep c s).seq = .initS1Low ∨ (lineStep c s).seq = .initS1Restore) := by
    intro hlow
    rcases step1_of_mem_successors _ _ (lineStep_seq_mem s c) hlow with e | e | e <;>
      simp [e, Pos.isCall] at hcall
  obtain ⟨k, hk⟩ := callOf_of_isCall c hcall
  rw [lineStep_of_call s c hk] at hlow ⊢
  have hseq := transactionStep_seq s c k
  have hplace := transactionStep_cmdSeq c k s
  have hbt := transactionStep_bt s c k
  have hsaved := transactionStep_priorInner c k s
  cases hq : s.cmdSeq <;> simp only [hq, reduceCtorEq, if_true, if_false] at hseq hplace hbt hsaved
  case select =>
    refine lineDiscipline_of_selected (by rwa [hseq]) (by rw [hplace]; rfl) (by rw [hbt]) ?_
    rw [hseq, hsaved]
    exact hout (by rw [hq]; rfl)
  case restore =>
    obtain ⟨-, hprior⟩ := hin (by rw [hq]; rfl)
    refine lineDiscipline_of_released (.inr (by rwa [hseq])) (by rw [hplace]; rfl) ?_ (absurd · hlow)
    rw [hseq, hbt]
    exact hprior
  case callReturn =>
    refine lineDiscipline_of_released (.inl hplace) (by rw [hplace]; rfl) ?_ (absurd · hlow)
    rw [hseq, hbt, line_afterCall hcall]
    exact hout (by rw [hq]; rfl)
  all_goals
    obtain ⟨hcs, hprior⟩ := hin (by rw [hq]; rfl)
    refine lineDiscipline_of_selected (by rwa [hseq]) ?_ (by rwa [hbt]) (by rwa [hseq, hsaved])
    rw [hplace]
    (try split) <;> rfl

/-- The step of every line keeps the discipline. -/
theorem lineStep : (lineStep c s).LineDiscipline := by
  cases hcall : s.seq.isCall with
  | true => exact h.lineStep_at_call c hcall
  | false =>
    have hplace : s.cmdSeq = .select := h.place_of_not_isCall hcall
    have hplace' : (Machine.lineStep c s).cmdSeq = .select := by
      rcases lineStep_cmdSeq s c hcall with e | e
      · rw [e, hplace]
      · exact e
    obtain ⟨hout, -, -, hprior⟩ := h
    have hlevel := hout (by rw [hplace]; rfl)
    exact lineDiscipline_of_released (.inl hplace') (by rw [hplace']; rfl)
      (lineStep_line c hcall hlevel hprior) (lineStep_priorOuter c hlevel hprior)

end LineDiscipline

/-- The host moves the line at `Idle`, whose level nothing fixes. -/
theorem LineDiscipline.hostStep {s t : State} (h : s.LineDiscipline) (hidle : s.seq = .idle)
    (hstep : hostStep s = .next t) : t.LineDiscipline := by
  have hplace : s.cmdSeq = .select := h.place_of_not_isCall (by rw [hidle]; rfl)
  obtain ⟨ht, -⟩ := hostStep_next hstep
  rw [ht]
  exact lineDiscipline_of_released (.inl hplace) (by rw [hplace]; rfl) (by simp [hidle, Pos.line])
    (by simp [hidle])

end State

theorem lineDiscipline_keptByParts : KeptByParts State.LineDiscipline where
  request _ _ h := h
  env _ _ h := h
  handler _ h := h
  host _ _ hidle h := h.hostStep hidle
  begun i _ hcs _ := State.lineDiscipline_begun i hcs
  computed _ h := h.computed params
  line _ h := h.lineStep params

/-- Settles O58: every part of a step keeps the discipline. -/
theorem stepKeepsLineDiscipline : Obligations.StepKeepsLineDiscipline := by
  intro s t h hstep
  exact lineDiscipline_keptByParts.step h hstep

end Sys2Proof.Machine
end

section
/-! PROOFS. Which steps write the flag, the driver's state and the transport, by the line computed
(O14 to O17). -/

namespace Sys2Proof.Machine

/-- The passing of a step for the guard leaves the line and the place computed. -/
@[simp] theorem State.computed_tick_seq (c : Params) (s : State) :
    (s.tick.computed c).seq = (s.computed c).seq := by
  rw [State.computed_tick, State.tick_seq]

@[simp] theorem State.computed_tick_cmdSeq (c : Params) (s : State) :
    (s.tick.computed c).cmdSeq = (s.computed c).cmdSeq := by
  rw [State.computed_tick, State.tick_cmdSeq]

/-- Settles O14: the handler's step is the only one that raises the flag, since no line does; of the lines
only the two `Arm`s clear it. -/
theorem flagIsSetByTheHandlerAndClearedByArm : Obligations.FlagIsSetByTheHandlerAndClearedByArm := by
  intro c s
  rcases busStep_cases c s with ⟨hdue, e⟩ | ⟨-, e⟩
  · obtain ⟨harmed, -⟩ := s.handlerDue_iff.1 hdue
    exact ⟨fun _ _ => ⟨harmed, e⟩, fun _ h => by simp [e] at h⟩
  · rw [e, sequencerStep_tg, State.computed_tick_seq, State.tick_tg]
    constructor
    · intro hlow hup
      split at hup <;> simp_all
    · intro hup hlow
      split at hlow
      case h_1 hq => exact .inl (State.seq_of_computed c hq rfl)
      case h_2 hq => exact .inr hq
      all_goals simp [hup] at hlow

/-- Settles O15: of the lines two write `DS.initialized` and two `DS.addressing_mode`. -/
theorem onlyInitializeWritesDriverState : Obligations.OnlyInitializeWritesDriverState := by
  intro c s
  rcases busStep_cases c s with ⟨-, e⟩ | ⟨-, e⟩
  · simp [e]
  · rw [e, sequencerStep_ds, State.computed_tick_seq, State.tick_ds, State.tick_w]
    split
    case h_1 hq => exact ⟨fun _ => .inl ⟨State.seq_of_computed c hq rfl, rfl⟩, fun h => absurd rfl h⟩
    case h_2 hq => exact ⟨fun h => absurd rfl h, fun _ => .inl ⟨State.seq_of_computed c hq rfl, rfl⟩⟩
    case h_3 hq => exact ⟨fun h => absurd rfl h, fun _ => .inr ⟨hq, rfl⟩⟩
    case h_4 hq => exact ⟨fun _ => .inr ⟨State.seq_of_computed c hq rfl, rfl⟩, fun h => absurd rfl h⟩
    case h_5 => exact ⟨fun h => absurd rfl h, fun h => absurd rfl h⟩

/-- Settles O16: of the lines two write the divider and two the enable bit. -/
theorem dividerAndEnableWriters : Obligations.DividerAndEnableWriters := by
  intro c s
  rcases busStep_cases c s with ⟨-, e⟩ | ⟨-, e⟩
  · simp [e]
  · rw [e, sequencerStep_bt, State.computed_tick_seq, State.computed_tick_cmdSeq,
      State.tick_bt, State.tick_w]
    split
    case h_1 hq => exact ⟨fun h => absurd rfl h, fun _ => .inl ⟨State.seq_of_computed c hq rfl, rfl⟩⟩
    case h_2 hq => exact ⟨fun _ => .inl ⟨State.seq_of_computed c hq rfl, rfl⟩, fun h => absurd rfl h⟩
    case h_5 hq => exact ⟨fun _ => .inr ⟨hq, rfl⟩, fun h => absurd rfl h⟩
    case h_9 hq => exact ⟨fun h => absurd rfl h, fun _ => .inr ⟨State.seq_of_computed c hq rfl, rfl⟩⟩
    all_goals (repeat' split) <;> exact ⟨fun h => absurd rfl h, fun h => absurd rfl h⟩

/-- Settles O17: the lines that move the chip-select are the `Select`s and the `Restore`s. -/
theorem onlySelectAndRestoreMoveTheLine : Obligations.OnlySelectAndRestoreMoveTheLine := by
  intro c s
  rcases busStep_cases c s with ⟨-, e⟩ | ⟨-, e⟩
  · simp [e]
  · rw [e, sequencerStep_bt, State.computed_tick_seq, State.computed_tick_cmdSeq,
      State.tick_bt, State.tick_w]
    intro hmoved
    split at hmoved
    case h_3 hq => exact .inl ⟨.inl hq, rfl⟩
    case h_4 hq => exact .inr (.inl ⟨.inl hq, rfl⟩)
    case h_6 hq => exact .inl ⟨.inr (.inl hq), rfl⟩
    case h_7 hq => exact .inr (.inl ⟨.inr (.inl hq), rfl⟩)
    case h_8 hq => exact .inr (.inl ⟨.inr (.inr hq), rfl⟩)
    case h_10 =>
      split at hmoved
      case isTrue hcall =>
        split at hmoved
        case h_1 hplace => exact .inl ⟨.inr (.inr ⟨hcall, hplace⟩), by simp [hcall]⟩
        case h_2 hplace => exact .inr (.inr ⟨hcall, hplace, by simp [hcall]⟩)
        case h_3 => exact absurd rfl hmoved
      case isFalse => exact absurd rfl hmoved
    all_goals exact absurd rfl hmoved

end Sys2Proof.Machine
end

section
/-! PROOFS. The counters and the buffer (O57), and the driver's state while `Initialize` is under way
(O59). -/

namespace Sys2Proof.Machine

/-! ## The poll counter -/

/-- What a step of a transaction does to `poll_count` (R120, R124). -/
theorem transactionStep_pollCount (c : Params) (k : Command) (s : State) :
    (transactionStep c k s).w.pollCount =
      match s.cmdSeq with
      | .select => 0#4
      | .poll => s.w.pollCount + 1#4
      | .callReturn => 0#4
      | _ => s.w.pollCount := by
  cases hq : s.cmdSeq <;> simp only [transactionStep, hq]
  case send => rw [State.cmdSend_w]
  case payload => rw [State.cmdPayload_w]; dsimp only; split <;> rfl
  all_goals rfl

/-- A line outside a transaction keeps `poll_count`, or clears it at a return (R31). -/
theorem lineStep_pollCount (c : Params) {s : State} (h : s.callOf c = none) :
    (lineStep c s).w.pollCount = s.w.pollCount ∨ (lineStep c s).w.pollCount = 0#4 := by
  cases hq : s.seq <;> simp [State.callOf, hq] at h <;>
    simp [lineStep, State.callOf, hq, frameStep, initStep, readStep, queryStep, Work.reset,
      State.negotiationTest_eq, State.waitTest_eq]
  case initS4Test | readWaitTest => split <;> exact .inl rfl

/-- Up to ten bytes are polled, and fewer while a status byte may still be polled (R120). -/
def State.PollInRange (s : State) : Prop :=
  s.w.pollCount.toNat ≤ 10 ∧ (s.cmdSeq = .send ∨ s.cmdSeq = .poll → s.w.pollCount.toNat < 10)

namespace State

variable {s : State}

theorem countersInRange_iff :
    s.CountersInRange ↔ s.PollInRange ∧ s.w.byteCount.toNat < bufferLen := and_assoc.symm

theorem pollInRange_of_zero (h : s.w.pollCount = 0#4) : s.PollInRange := by
  simp [PollInRange, h]

/-- Past the poll the limit is all that is asked. -/
theorem pollInRange_of_le (h : s.w.pollCount.toNat ≤ 10) (hsend : s.cmdSeq ≠ .send)
    (hpoll : s.cmdSeq ≠ .poll) : s.PollInRange :=
  ⟨h, fun h => h.elim (absurd · hsend) (absurd · hpoll)⟩

/-- A poll goes on below its limit only (R120). -/
theorem lt_of_computed_poll (c : Params)
    (h : (s.computed c).cmdSeq = .send ∨ (s.computed c).cmdSeq = .poll) :
    (s.cmdSeq = .send ∨ s.cmdSeq = .poll) ∨ s.w.pollCount.toNat < c.responsePollLimit := by
  rw [computed, commandDecision_cmdSeq, operationDecision_cmdSeq, operationDecision_w] at h
  split at h
  · split at h
    · next hgoes => exact .inr hgoes.2
    · simp at h
  · split at h <;> simp at h
  · exact .inl h

theorem PollInRange.computed (h : s.PollInRange) : (s.computed params).PollInRange := by
  obtain ⟨hle, hlt⟩ := h
  unfold PollInRange
  rw [computed_pollCount]
  exact ⟨hle, fun hgoes => (lt_of_computed_poll params hgoes).elim hlt id⟩

/-- A transaction empties the counter before its poll and counts each byte of it once (R120). -/
theorem PollInRange.transactionStep (k : Command) (h : s.PollInRange) :
    (transactionStep params k s).PollInRange := by
  obtain ⟨hle, hlt⟩ := h
  have hplace := transactionStep_cmdSeq params k s
  have hcount := transactionStep_pollCount params k s
  cases hq : s.cmdSeq <;> simp only [hq] at hplace hcount
  case select | callReturn => exact pollInRange_of_zero hcount
  case send =>
    have h10 : s.w.pollCount.toNat < 10 := hlt (.inl hq)
    exact ⟨by rwa [hcount], fun _ => by rwa [hcount]⟩
  case poll =>
    have h10 : s.w.pollCount.toNat < 10 := hlt (.inr hq)
    refine pollInRange_of_le ?_ (by simp [hplace]) (by simp [hplace])
    rw [hcount, BitVec.toNat_add]
    simp only [BitVec.toNat_ofNat]
    omega
  case payload =>
    refine pollInRange_of_le (by rwa [hcount]) ?_ ?_ <;> rw [hplace] <;> split <;> simp
  all_goals exact pollInRange_of_le (by rwa [hcount]) (by simp [hplace]) (by simp [hplace])

/-- The step of every line keeps the poll in its range. -/
theorem PollInRange.lineStep (h : s.PollInRange) : (lineStep params s).PollInRange := by
  cases hk : s.callOf params with
  | some k => rw [lineStep_of_call s params hk]; exact h.transactionStep k
  | none =>
    have hcall : s.seq.isCall = false := by rw [← callOf_isSome s params, hk]; rfl
    rcases lineStep_pollCount params hk with hcount | hcount
    · obtain ⟨hle, hlt⟩ := h
      unfold PollInRange
      rw [hcount]
      rcases lineStep_cmdSeq s params hcall with hplace | hplace <;> rw [hplace]
      · exact ⟨hle, hlt⟩
      · exact ⟨hle, fun h => by simp at h⟩
    · exact pollInRange_of_zero hcount

end State

/-! ## The invariant -/

/-- What O57 keeps: the counters in their ranges and the buffer in its canonical form. -/
def State.CountersAndBuffer (s : State) : Prop :=
  s.PollInRange ∧ s.w.byteCount.toNat < bufferLen ∧ Memory.wf s.buffer = true

namespace State.CountersAndBuffer

variable {s t : State} (h : s.CountersAndBuffer)
include h

/-- The host supplies a buffer of which no position has a value, if it supplies one (R52). -/
theorem hostStep (hstep : hostStep s = .next t) : t.CountersAndBuffer := by
  obtain ⟨hpoll, hbyte, hbuffer⟩ := h
  obtain ⟨ht, hb⟩ := hostStep_next hstep
  refine ⟨by rw [ht]; exact hpoll, by rw [ht]; exact hbyte, ?_⟩
  rcases hb with hb | hb <;> rw [hb]
  · exact hbuffer
  · rfl

/-- An instruction begins with empty counters; the bare encoder leaves them as they are (R31, R101). -/
theorem begun (i : Instr) : (s.begun i).CountersAndBuffer := by
  obtain ⟨⟨hle, -⟩, hbyte, hbuffer⟩ := h
  cases i
  case cmdGeneric => exact ⟨pollInRange_of_le hle nofun nofun, hbyte, hbuffer⟩
  all_goals exact ⟨pollInRange_of_zero rfl, (by decide : (0#10).toNat < bufferLen), hbuffer⟩

theorem computed : (s.computed params).CountersAndBuffer := by
  obtain ⟨hpoll, hbyte, hbuffer⟩ := h
  exact ⟨hpoll.computed, by rwa [computed_byteCount], by rwa [computed_buffer]⟩

theorem lineStep : (lineStep params s).CountersAndBuffer := by
  obtain ⟨hpoll, hbyte, hbuffer⟩ := h
  refine ⟨hpoll.lineStep, lineStep_byteCount_lt hbyte, ?_⟩
  rw [lineStep_buffer]
  split
  · exact s.memWrite_wf _ _ hbuffer
  · exact hbuffer

end State.CountersAndBuffer

theorem countersAndBuffer_keptByParts : KeptByParts State.CountersAndBuffer where
  request _ _ h := h
  env _ _ h := h
  handler _ h := h
  host _ _ _ h := h.hostStep
  begun i _ _ h := h.begun i
  computed _ h := h.computed
  line _ h := h.lineStep

/-- Settles O57: every part of a step keeps the counters and the buffer. -/
theorem stepKeepsCountersAndBuffer : Obligations.StepKeepsCountersAndBuffer := by
  intro s t hcounters hbuffer hstep
  obtain ⟨hpoll, hbyte⟩ := State.countersInRange_iff.1 hcounters
  obtain ⟨hpoll', hbyte', hbuffer'⟩ :=
    countersAndBuffer_keptByParts.step ⟨hpoll, hbyte, hbuffer⟩ hstep
  exact ⟨State.countersInRange_iff.2 ⟨hpoll', hbyte'⟩, hbuffer'⟩

/-! ## The driver's state while `Initialize` is under way -/

/-- A pure computation of `Initialize` leads to lines of `Initialize`, no other does. -/
theorem negotiating_of_mem_decisions (q : Pos) : ∀ p ∈ q.decisions, p.negotiating = q.negotiating := by
  cases q <;> simp [Pos.decisions, Pos.negotiating]

/-- `Initialize` is entered by its first entry action, which clears `DS.initialized` (R171). -/
theorem negotiating_of_mem_successors (q : Pos) : ∀ p ∈ q.successors, p.negotiating = true →
    q = .initEntryClear ∨ (q.negotiating = true ∧ q ≠ .initDone) := by
  cases q <;> simp [Pos.successors, Pos.negotiating]

namespace State.UninitializedWhileNegotiating

variable {s t : State} (h : s.UninitializedWhileNegotiating)
include h

theorem hostStep (hstep : hostStep s = .next t) : t.UninitializedWhileNegotiating := by
  obtain ⟨ht, -⟩ := hostStep_next hstep
  rw [ht]
  exact h

theorem computed (c : Params) : (s.computed c).UninitializedWhileNegotiating := by
  intro hneg
  rw [negotiating_of_mem_decisions _ _ (s.computed_seq_mem c)] at hneg
  rw [computed_ds]
  exact h hneg

/-- Of the lines that lead into `Initialize` none sets `DS.initialized`: `Init.done` leads out of it. -/
theorem lineStep (c : Params) : (lineStep c s).UninitializedWhileNegotiating := by
  intro hneg
  rw [lineStep_ds]
  rcases negotiating_of_mem_successors _ _ (lineStep_seq_mem s c) hneg with hq | ⟨hq, hdone⟩
  · rw [hq]
  · split
    case h_1 => rfl
    case h_4 hq' => exact absurd hq' hdone
    all_goals exact h hq

end State.UninitializedWhileNegotiating

/-- No instruction begins past the entry action of `Initialize`. -/
theorem State.uninitializedWhileNegotiating_begun (s : State) (i : Instr) :
    (s.begun i).UninitializedWhileNegotiating := by
  cases i <;> exact nofun

theorem uninitializedWhileNegotiating_keptByParts : KeptByParts State.UninitializedWhileNegotiating where
  request _ _ h := h
  env _ _ h := h
  handler _ h := h
  host _ _ _ h := h.hostStep
  begun i s _ _ := s.uninitializedWhileNegotiating_begun i
  computed _ h := h.computed params
  line _ h := h.lineStep params

/-- Settles O59: every part of a step keeps the driver uninitialized while `Initialize` is under way. -/
theorem negotiatingDriverIsUninitialized : Obligations.NegotiatingDriverIsUninitialized := by
  intro s t h hstep
  exact uninitializedWhileNegotiating_keptByParts.step h hstep

end Sys2Proof.Machine
end

section
/-! PROOFS. What is refused (O47), and what a step at `Idle` or at `frameFetch` runs (O48). -/

namespace Sys2Proof.Machine

theorem whenIdle_refused {s : State} (run : State) (h : s.seq ≠ .idle) :
    s.whenIdle run = .refused .operationInProgress := by
  simp [State.whenIdle, h]

theorem whenEnabled_inProgress {s : State} (run : State) (h : s.seq ≠ .idle) :
    s.whenEnabled run = .refused .operationInProgress := by
  simp [State.whenEnabled, whenIdle_refused, h]

theorem whenEnabled_disabled {s : State} (run : State) (h : s.seq = .idle) (he : s.bt.enabled = false) :
    s.whenEnabled run = .refused .transportDisabled := by
  simp [State.whenEnabled, h, he]

theorem execInitialize_inProgress {s : State} (h : s.seq ≠ .idle) :
    execInitialize s = .refused .operationInProgress := by
  simp [execInitialize, whenIdle_refused, h]

/-- Settles O47: the guards of the meanings refuse a request by its own state, `progressStep` a step inside
an operation. -/
theorem refusalsOfTheHostOperations : Obligations.RefusalsOfTheHostOperations := by
  refine ⟨fun n s h => ⟨?_, ?_, ?_, ?_⟩, fun s h hcs => ?_, fun n s h he => ⟨?_, ?_⟩,
    fun s r hrest hreq => ?_, fun s hrest hreq hdue he hbus => ?_⟩
  · exact execInitialize_inProgress h
  · exact whenEnabled_inProgress (s := { s with host.blockNumber := n }) _ h
  · exact whenEnabled_inProgress _ h
  · exact whenIdle_refused _ h
  · simp [exec, execInitialize, h, hcs]
  · exact whenEnabled_disabled _ h he
  · exact whenEnabled_disabled _ h he
  · rw [step_of_inside hrest]; simp [progressStep, hreq]
  · rw [step_of_inside hrest]; simp [progressStep, hreq, hdue, he, hbus]

/-- Settles O48: `step` hands the decoded instruction to `exec`, and a word that is no frame to nothing. -/
theorem stepRunsTheDecodedInstruction : Obligations.StepRunsTheDecodedInstruction := by
  refine ⟨fun s r hidle hreq => ?_, fun s w i hfetch hok => ?_, fun s w e hfetch herr => ?_⟩
  · simp [step, hidle, idleStep, hreq]
  · simp [step, hfetch, fetchStep, hok]
  · simp [step, hfetch, fetchStep, herr]

end Sys2Proof.Machine
end

section
/-! PROOFS. The memory family: the operand computations (O8, O9), the one writer of the caller's buffer
(O18), and the commands the sequencer can send (O20). -/

namespace Sys2Proof.Machine

/-! ## The read address -/

/-- Byte addressing multiplies by the sector length, modulo the word (R61, D20). -/
theorem toNat_translate_byte (n : Word) : (translate .byte n).toNat = n.toNat * 512 % 2 ^ 32 := by
  simp [translate, BitVec.toNat_mul]

/-- Settles O8: the modulus is itself a multiple of the sector length, so the reduction keeps the
alignment. -/
theorem addressTranslation : Obligations.AddressTranslation := by
  intro n
  have halign : n.toNat * 512 % 2 ^ 32 % 512 = 0 := by omega
  exact ⟨rfl, toNat_translate_byte n, by rw [toNat_translate_byte, halign]⟩

/-! ## The payload -/

/-- With the first byte most significant, the payload is the received bytes one after the other (R55):
each of its 32 bits is that bit of the byte whose place it falls in. -/
theorem assemble_msbFirst (r0 r1 r2 r3 : Byte) :
    assemble .msbFirst r0 r1 r2 r3 = r0 ++ r1 ++ r2 ++ r3 := by
  unfold assemble payloadPlace
  apply BitVec.eq_of_getLsbD_eq
  intro n hn
  simp only [BitVec.getLsbD_or, BitVec.getLsbD_shiftLeft, BitVec.getLsbD_setWidth, BitVec.getLsbD_append]
  interval_cases n <;> simp

theorem or_reverse (a b c d : Word) : a ||| b ||| c ||| d = d ||| c ||| b ||| a := by ac_rfl

/-- The two wire orders read the same bytes in opposite directions (R55): byte `i` has in the one the place
that byte `3 - i` has in the other. -/
theorem assemble_lsbFirst (r0 r1 r2 r3 : Byte) :
    assemble .lsbFirst r0 r1 r2 r3 = assemble .msbFirst r3 r2 r1 r0 :=
  or_reverse (payloadPlace .lsbFirst 0 r0) (payloadPlace .lsbFirst 1 r1) (payloadPlace .lsbFirst 2 r2)
    (payloadPlace .lsbFirst 3 r3)

/-- One more byte behind shifts the value up by its width. -/
theorem toNat_append_byte {n : Nat} (v : BitVec n) (b : Byte) :
    (v ++ b).toNat = v.toNat * 2 ^ 8 + b.toNat := by
  rw [BitVec.toNat_append, ← Nat.shiftLeft_add_eq_or_of_lt b.isLt, Nat.shiftLeft_eq]

theorem toNat_assemble_msbFirst (r0 r1 r2 r3 : Byte) : (assemble .msbFirst r0 r1 r2 r3).toNat =
    r0.toNat * 2 ^ 24 + r1.toNat * 2 ^ 16 + r2.toNat * 2 ^ 8 + r3.toNat := by
  rw [assemble_msbFirst, toNat_append_byte, toNat_append_byte, toNat_append_byte]
  omega

/-- Settles O9: the payload's bytes are appended, and the other wire order appends them the other way
round. -/
theorem payloadAssembly : Obligations.PayloadAssembly := by
  intro r0 r1 r2 r3
  refine ⟨toNat_assemble_msbFirst r0 r1 r2 r3, ?_⟩
  rw [assemble_lsbFirst, toNat_assemble_msbFirst]
  omega

/-! ## The caller's buffer -/

/-- What an agent's step does to the buffer: the handler nothing, the sequencer in the data phase one
write of the byte received. -/
theorem busStep_buffer (c : Params) (s : State) : (busStep c s).buffer =
    if s.handlerDue = false ∧ s.seq = .readData ∧ s.w.byteCount.toNat < bufferLen then
      Memory.write s.buffer s.w.byteCount.toNat s.cardByte
    else s.buffer := by
  rcases busStep_cases c s with ⟨hdue, e⟩ | ⟨hdue, e⟩
  · simp [e, hdue]
  · rw [e, sequencerStep_buffer, State.memWrite_buffer_eq]
    simp [hdue, ite_and]

/-- Settles O18: outside the data phase, or at a position the buffer has not, nothing is written; in it,
one write at the counted position. -/
theorem bufferIsWrittenInTheDataPhaseOnly : Obligations.BufferIsWrittenInTheDataPhaseOnly := by
  intro c s
  constructor
  · intro hchanged
    rw [busStep_buffer] at hchanged
    split at hchanged
    · next hwrite => exact hwrite.2
    · exact absurd rfl hchanged
  · intro hdata hdue hpos a
    rw [busStep_buffer, if_pos ⟨hdue, hdata, hpos⟩, Memory.read_write, State.answer_zero]

/-! ## The commands the sequencer sends -/

/-- The commands of R79 with their arguments, for a read at `address`. -/
def tableCommands (c : Params) (address : Word) : List Command :=
  [resetCommand c, ifCondCommand c, setBlocklenCommand c, readSingleCommand c address,
    appPrefixCommand c, appInitCommand c true, appInitCommand c false, readOcrCommand c]

theorem CardCommand.command_mem_tableCommands (c : Params) (address : Word) (k : CardCommand) :
    k.command c address ∈ tableCommands c address := by
  cases k <;> simp [CardCommand.command, tableCommands]

theorem appInitCommand_mem_tableCommands (c : Params) (address : Word) (hcs : Bool) :
    appInitCommand c hcs ∈ tableCommands c address := by
  cases hcs <;> simp [tableCommands]

/-- A call of `Command` sends a command of the table (R59, R81). -/
theorem callOf_mem_tableCommands (c : Params) {s : State} {k : Command} (h : s.callOf c = some k) :
    k ∈ tableCommands c s.w.address := by
  unfold State.callOf at h
  split at h <;> cases h
  case h_1 p _ => exact p.command_mem_tableCommands c _
  case h_3 | h_7 => exact appInitCommand_mem_tableCommands c _ _
  all_goals simp [tableCommands]

/-- In `Initialize` the initialization command's argument is that of the card version (R108, R175). -/
theorem callOf_initS4Init (c : Params) {s : State} (h : s.seq = .initS4Init) :
    s.callOf c = some (appInitCommand c (s.w.cardVersion = .v2)) := by
  simp [State.callOf, h]

/-- The generic row at rest is the bare call of the encoder (R81, R100). -/
theorem exec_cmdGeneric (index : BitVec 6) (arg : Word) (check : BitVec 7) {s : State}
    (h : s.seq.resting = true) :
    exec (.cmdGeneric index arg check) s = .next (s.encodeAlone ⟨index, arg, check⟩) :=
  whenResting_next.2 ⟨h, rfl⟩

/-- Settles O20: a call sends a command of the table, whose numbers are those of `params`; the generic row
only encodes. -/
theorem onlyTheSevenCommandsAreSent : Obligations.OnlyTheSevenCommandsAreSent := by
  refine ⟨fun s k h => ?_, fun s h => ?_, fun index arg check s h => ?_⟩
  · have hmem := callOf_mem_tableCommands params h
    simp only [tableCommands, List.mem_cons, List.not_mem_nil, or_false] at hmem
    exact hmem
  · rw [callOf_initS4Init params h]
    cases s.w.cardVersion <;> rfl
  · exact ⟨_, exec_cmdGeneric index arg check h, by simp⟩

end Sys2Proof.Machine
end

section
/-! PROOFS. The encoding family: which words are frames (O3), that decoder and encoder undo each other, in
both directions (O4, O5), and the words of the opcode table (O6). -/

namespace Sys2Proof

open Machine (params)

/-! ## The framing bits -/

/-- The start bit, the transmission bit and the stop bit as R71 fixes them. -/
def Frame.framed (w : Frame) : Prop :=
  w.getLsbD 47 = false ∧ w.getLsbD 46 = true ∧ w.getLsbD 0 = true

/-- The mask of R71 keeps the three framing bits and no other. -/
theorem Frame.framed_iff_mask (w : Frame) :
    w.framed ↔ w &&& 0xC00000000001#48 = 0x400000000001#48 := by
  constructor
  · rintro ⟨hstart, htrans, hstop⟩
    apply BitVec.eq_of_getLsbD_eq
    intro n hn
    rw [BitVec.getLsbD_and]
    interval_cases n <;> simp [-BitVec.getLsbD_eq_getElem, hstart, htrans, hstop]
  · intro h
    have hbit : ∀ n, (w.getLsbD n && (0xC00000000001#48).getLsbD n) = (0x400000000001#48).getLsbD n :=
      fun n => by rw [← BitVec.getLsbD_and, h]
    exact ⟨by simpa using hbit 47, by simpa using hbit 46, by simpa using hbit 0⟩

/-- A framed word is the encoding of its own operand fields: framing bits and fields are all its bits. -/
theorem encodeFrame_frameCommand {w : Frame} (h : w.framed) : encodeFrame (frameCommand w) = w := by
  obtain ⟨hstart, htrans, hstop⟩ := h
  apply BitVec.eq_of_getLsbD_eq
  intro n hn
  rw [getLsbD_encodeFrame _ n hn]
  interval_cases n <;> simp [-BitVec.getLsbD_eq_getElem, frameCommand, hstart, htrans, hstop]

/-- What the encoder builds has the framing bits (R110). -/
theorem framed_encodeFrame (k : Command) : (encodeFrame k).framed := by
  simp [-BitVec.getLsbD_eq_getElem, Frame.framed, getLsbD_encodeFrame]

/-- Everything the decoder takes: a framed word, read as the row of its operand fields. -/
theorem decodeFrame_eq_ok_iff {w : Frame} {i : Instr} :
    decodeFrame w = .ok i ↔ w.framed ∧ classify (frameCommand w) = i := by
  unfold decodeFrame Frame.framed
  cases w.getLsbD 47 <;> cases w.getLsbD 46 <;> cases w.getLsbD 0 <;> simp

/-- Settles O3: the decoder takes the framed words, whose bits are those of the mask, and tests the three
bits in the order named. -/
theorem decoderTakesExactlyTheFrames : Obligations.DecoderTakesExactlyTheFrames := by
  refine ⟨fun w => ?_, fun w hstart => ?_, fun w hstart htrans => ?_, fun w hstart htrans hstop => ?_⟩
  · rw [← w.framed_iff_mask]
    simp [decodeFrame_eq_ok_iff]
  · rw [decodeFrame, hstart]; rfl
  · rw [decodeFrame, hstart, htrans]; rfl
  · rw [decodeFrame, hstart, htrans, hstop]; rfl

/-! ## The rows of the command table -/

/-- The instruction that the decoder reads from an operand triple in a row. -/
def FrameRow.instr (k : Command) : FrameRow → Instr
  | .cmd0 => .cmd0
  | .cmd8 => .cmd8
  | .cmd16 => .cmd16
  | .cmd17 => .cmd17 k.arg
  | .cmd55 => .cmd55
  | .acmd41 => .acmd41 (k.arg == params.hcsArg)
  | .cmd58 => .cmd58

/-- A row covers the triples that are the operands of its instruction (R79). -/
theorem FrameRow.covers_iff (k : Command) (r : FrameRow) :
    r.covers k = true ↔ (r.instr k).command = some k := by
  obtain ⟨index, arg, check⟩ := k
  cases r <;> simp only [covers, instr, Instr.command, Option.some.injEq, Command.mk.injEq,
    resetCommand, ifCondCommand, setBlocklenCommand, readSingleCommand, appPrefixCommand, appInitCommand,
    hcsArgument, readOcrCommand, Bool.and_eq_true, Bool.or_eq_true, beq_iff_eq, eq_comm (b := index),
    eq_comm (b := arg), eq_comm (b := check), and_assoc, true_and]
  case acmd41 => by_cases harg : arg = params.hcsArg <;> simp [harg]

/-- Everything an operand triple is read as: the instruction of a row that covers it, or, when none does, a
generic frame. -/
theorem classify_cases (k : Command) :
    (∃ r : FrameRow, r.covers k = true ∧ classify k = r.instr k) ∨
    (FrameRow.all.all (fun r => !r.covers k) = true ∧ classify k = .cmdGeneric k.index k.arg k.check) := by
  unfold classify
  split_ifs with h0 h8 h16 h17 h55 h41 h58
  · exact .inl ⟨_, h0, rfl⟩
  · exact .inl ⟨_, h8, rfl⟩
  · exact .inl ⟨_, h16, rfl⟩
  · exact .inl ⟨_, h17, rfl⟩
  · exact .inl ⟨_, h55, rfl⟩
  · exact .inl ⟨_, h41, rfl⟩
  · exact .inl ⟨_, h58, rfl⟩
  · exact .inr ⟨by simp [FrameRow.all, *], rfl⟩

/-- What is read from an operand triple has the triple for its operands. -/
theorem command_classify (k : Command) : (classify k).command = some k := by
  rcases classify_cases k with ⟨r, hr, e⟩ | ⟨-, e⟩
  · rw [e, ← r.covers_iff]; exact hr
  · rw [e]; rfl

/-- What is read from an operand triple is well formed: a generic frame is read when no row covers it. -/
theorem wf_classify (k : Command) : (classify k).wf = true := by
  rcases classify_cases k with ⟨r, -, e⟩ | ⟨hnone, e⟩
  · rw [e]; cases r <;> rfl
  · rw [e]; exact hnone

/-- The operands of a well-formed instruction are read as that instruction. -/
theorem classify_of_command {i : Instr} {k : Command} (hwf : i.wf = true) (h : i.command = some k) :
    classify k = i := by
  cases i <;> cases h
  case cmd17 address =>
    simp [classify, FrameRow.covers, readSingleCommand, params]
  case acmd41 hcs => cases hcs <;> rfl
  case cmdGeneric index arg check =>
    simp only [Instr.wf, FrameRow.all, List.all_cons, List.all_nil, Bool.and_true, Bool.and_eq_true,
      Bool.not_eq_true'] at hwf
    simp [classify, hwf]
  all_goals rfl

/-- An instruction with operands is written as their frame (R79, R100). -/
theorem encode_of_command {i : Instr} {k : Command} (h : i.command = some k) :
    encode i = .frame (encodeFrame k) := by
  cases i <;> cases h <;> rfl

/-! ## Decoder and encoder -/

/-- The decoder reads an encoded frame as its operands are read. -/
theorem decodeFrame_encodeFrame (k : Command) : decodeFrame (encodeFrame k) = .ok (classify k) :=
  decodeFrame_eq_ok_iff.2 ⟨framed_encodeFrame k, by rw [frameCommand_encodeFrame]⟩

/-- A host operation is read back from its select (R84). -/
theorem decode_encode_of_operation {i : Instr} (h : i.command = none) : decode (encode i) = .ok i := by
  cases i <;> cases h <;> rfl

/-- Settles O4: a host operation is read back from its select, a command row from its frame, which gives
its operands back. -/
theorem decodeReadsBackEveryInstruction : Obligations.DecodeReadsBackEveryInstruction := by
  intro i hwf
  cases hk : i.command with
  | none => exact decode_encode_of_operation hk
  | some k => rw [encode_of_command hk, decode, decodeFrame_encodeFrame, classify_of_command hwf hk]

/-- Settles O5: what is decoded has the word's own fields for its operands, and they encode to the word. -/
theorem encodeGivesBackEveryFrame : Obligations.EncodeGivesBackEveryFrame := by
  intro w i h
  obtain ⟨hframed, rfl⟩ := decodeFrame_eq_ok_iff.1 h
  exact ⟨by rw [encode_of_command (command_classify _), encodeFrame_frameCommand hframed], wf_classify _⟩

/-! ## The words of the opcode table -/

/-- A table word that is the word of a well-formed instruction decodes to it. -/
theorem decodeTableWord_of_encode {nbits w : Nat} {i : Instr} (hwf : i.wf = true)
    (hword : tableWord nbits w = some (encode i)) : decodeTableWord nbits w = some i := by
  simp [decodeTableWord, hword, decodeReadsBackEveryInstruction i hwf]

/-- Settles O6: each table word is the encoding of its row. -/
theorem tableWordsDecodeToTheirRows : Obligations.TableWordsDecodeToTheirRows := by
  refine ⟨?_, ?_, ?_, ?_, ?_, ?_, ?_, ?_, ?_, ?_, ?_, ?_, ?_⟩ <;>
    exact decodeTableWord_of_encode (by decide) (by decide)

end Sys2Proof
end

section
/-! PROOFS. The byte a line sends (O19), and how the two positions that send index 41 are entered (O23). -/

namespace Sys2Proof.Machine

/-! ## The byte a line sends -/

/-- The byte that the step of a line sends, if it makes a transfer (R143 to R145, R151). -/
def State.lineByte (c : Params) (s : State) : Option Byte :=
  match s.seq with
  | .initS1High => some c.fill
  | .initS1Low => some c.fill
  | .readWaitXfer => some c.fill
  | .readData => some c.fill
  | .readTrailer => some c.fill
  | p =>
    if p.isCall then
      match s.cmdSeq with
      | .send => some (frameByte s.w.frame s.w.byteCount.toNat)
      | .poll => some c.fill
      | .payload => some c.fill
      | _ => none
    else none

/-- The events recorded once the byte, if any, is sent (R142). -/
def State.recorded (s : State) (b : Option Byte) : List Event :=
  s.trace ++ b.toList.map fun b => ⟨s.bt.csAsserted, s.bt.divider, b, s.answer 0⟩

/-- What a line sends is the counted byte of the frame at `Cmd.send`, and fill at any other place. -/
theorem State.eq_of_lineByte {c : Params} {s : State} {b : Byte} (h : s.lineByte c = some b) :
    (s.seq.isCall = true ∧ s.cmdSeq = .send ∧ b = frameByte s.w.frame s.w.byteCount.toNat) ∨
    (b = c.fill ∧ ¬ (s.seq.isCall = true ∧ s.cmdSeq = .send)) := by
  unfold State.lineByte at h
  split at h
  case h_6 =>
    split at h
    case isTrue hcall =>
      split at h <;> cases h
      case h_1 hplace => exact .inl ⟨hcall, hplace, rfl⟩
      all_goals exact .inr ⟨rfl, by simp [*]⟩
    case isFalse => cases h
  all_goals
    cases h
    exact .inr ⟨rfl, by simp [*, Pos.isCall]⟩

/-- A step of a transaction records the byte it sends and nothing else. -/
theorem transactionStep_trace (c : Params) (k : Command) {s : State} (hcall : s.seq.isCall = true) :
    (transactionStep c k s).trace = s.recorded (s.lineByte c) := by
  have hbyte : s.lineByte c =
      match s.cmdSeq with
      | .send => some (frameByte s.w.frame s.w.byteCount.toNat)
      | .poll => some c.fill
      | .payload => some c.fill
      | _ => none := by
    unfold State.lineByte
    cases hq : s.seq <;> simp [hq, Pos.isCall] at hcall <;> rfl
  rw [hbyte]
  cases hq : s.cmdSeq <;> simp [transactionStep, hq, State.recorded, State.answer_zero]

/-- The step of a line records the byte it sends and nothing else. -/
theorem lineStep_trace (c : Params) (s : State) :
    (lineStep c s).trace = s.recorded (s.lineByte c) := by
  cases hk : s.callOf c with
  | some k => rw [lineStep_of_call s c hk, transactionStep_trace c k (isCall_of_callOf c hk)]
  | none =>
    cases hq : s.seq <;> simp [State.callOf, hq] at hk <;>
      simp [lineStep, State.callOf, hq, frameStep, initStep, readStep, queryStep, State.lineByte,
        State.recorded, Pos.isCall, State.answer_zero]

/-- A step of the sequencer records the byte that the line computed sends. -/
theorem sequencerStep_trace (c : Params) (s : State) :
    (sequencerStep c s).trace = s.recorded ((s.computed c).lineByte c) := by
  cases hr : s.seq.resting with
  | false =>
    rw [sequencerStep_eq c hr, lineStep_trace]
    simp [State.recorded, State.answer]
  | true =>
    have hseq := computed_seq_of_resting c hr
    rw [sequencerStep_resting c hr]
    cases hq : s.seq <;> simp [hq, Pos.resting] at hr <;>
      simp [State.recorded, State.lineByte, hseq, hq, Pos.isCall]

/-- An agent's step records nothing, or the byte that the line computed sends. -/
theorem busStep_trace (c : Params) (s : State) :
    (busStep c s).trace = s.trace ∨
    (busStep c s).trace = s.recorded ((s.computed c).lineByte c) := by
  rcases busStep_cases c s with ⟨-, e⟩ | ⟨-, e⟩
  · rw [e]; exact .inl rfl
  · rw [e, sequencerStep_trace, State.computed_tick]
    exact .inr (by simp [State.recorded, State.lineByte, State.answer])

/-- Settles O19: the byte of the line computed is one of the two, if it sends one. -/
theorem stepsSendTheFrameOrFill : Obligations.StepsSendTheFrameOrFill := by
  intro c s
  rcases busStep_trace c s with e | e
  · exact .inl e
  · cases hb : (s.computed c).lineByte c with
    | none => exact .inl (by rw [e, hb]; exact List.append_nil _)
    | some b =>
      have hbyte := State.eq_of_lineByte hb
      rw [State.computed_byteCount] at hbyte
      exact .inr ⟨b, by rw [e, hb]; rfl, hbyte⟩

/-! ## Where index 41 is sent -/

/-- No command called on its own has index 41 (R80). -/
theorem CardCommand.index_ne_appInit (address : Word) (k : CardCommand) :
    (k.command params address).index ≠ 41#6 := by
  cases k <;> simp [command, resetCommand, ifCondCommand, setBlocklenCommand, readSingleCommand,
    appPrefixCommand, readOcrCommand, params]

/-- A call of `Command` sends index 41 at two positions only (R80). -/
theorem seq_of_callOf_appInit {s : State} {k : Command} (h : s.callOf params = some k)
    (hk : k.index = 41#6) : s.seq = .initS4Init ∨ ∃ hcs, s.seq = .frameInit hcs := by
  have hne := CardCommand.index_ne_appInit s.w.address
  unfold State.callOf at h
  split at h <;> cases h
  case h_3 hcs hq => exact .inr ⟨hcs, hq⟩
  case h_7 hq => exact .inl hq
  case h_1 p _ => exact absurd hk (hne p)
  case h_2 | h_6 => exact absurd hk (hne .appPrefix)
  case h_4 => exact absurd hk (hne .reset)
  case h_5 => exact absurd hk (hne .ifCond)
  case h_8 | h_11 => exact absurd hk (hne .readOcr)
  case h_9 => exact absurd hk (hne .setBlocklen)
  case h_10 => exact absurd hk (hne .readSingle)

/-- An agent's step that moves the position is the sequencer's, and goes where the line computed goes. -/
theorem busStep_seq_mem (c : Params) {s : State} (h : (busStep c s).seq ≠ s.seq) :
    (busStep c s).seq ∈ (s.computed c).seq.successors := by
  rcases busStep_cases c s with ⟨-, e⟩ | ⟨-, e⟩
  · rw [e] at h; exact absurd rfl h
  · rw [e, ← State.computed_tick_seq]; exact sequencerStep_seq_mem _ c

/-- A call of `Command` is left by the return of its transaction only (R149). -/
theorem cmdSeq_of_leaves_call (c : Params) {s : State} (hcall : s.seq.isCall = true)
    (h : (busStep c s).seq ≠ s.seq) : (s.computed c).cmdSeq = .callReturn := by
  rcases busStep_cases c s with ⟨-, e⟩ | ⟨-, e⟩
  · rw [e] at h; exact absurd rfl h
  · have hcall' : s.tick.seq.isCall = true := by rwa [State.tick_seq]
    obtain ⟨k, hk⟩ := callOf_of_isCall c hcall'
    rw [e, step_call c hk, transactionStep_seq, commandDecision_seq, State.tick_seq] at h
    rw [← State.computed_tick_cmdSeq, State.computed_of_line _ c (isPure_of_isCall hcall')]
    by_contra hne
    exact h (if_neg hne)

/-- The positions of a pair CMD55 and index 41 (R80): CMD55, the check of its kind, index 41. -/
inductive PrefixPair : Pos → Pos → Pos → Prop
  /-- The pair of `Initialize`, step 4 (R175). -/
  | negotiation : PrefixPair .initS4Prefix .initS4PrefixCheck .initS4Init
  /-- The pair called on its own (log entry 4). -/
  | alone (hcs : Bool) : PrefixPair (.framePrefix hcs) (.framePrefixCheck hcs) (.frameInit hcs)

namespace PrefixPair

variable {p q r x : Pos} (h : PrefixPair p q r)
include h

theorem isCall_prefix : p.isCall = true := by cases h <;> rfl

theorem isDecided_prefix : p.isDecided = false := by cases h <;> rfl

theorem isPure_check : q.isPure = true := by cases h <;> rfl

/-- No line goes to index 41 but itself: it is entered by a pure computation. -/
theorem eq_of_init_mem_successors (hx : r ∈ x.successors) : x = r := by
  cases h <;> cases x <;> simp [Pos.successors] at hx <;> simp [hx]

theorem eq_of_init_mem_decisions (hx : r ∈ x.decisions) : x = q ∨ x = r := by
  cases h <;> cases x <;> simp [Pos.decisions] at hx <;> simp [hx]

/-- Only CMD55's line goes to the check of its kind. -/
theorem eq_of_check_mem_successors (hx : q ∈ x.successors) : x = p ∨ x = q := by
  cases h <;> cases x <;> simp [Pos.successors] at hx <;> simp [hx]

/-- The check lets index 41 through after a benign kind only (R175, D14). -/
theorem benign_of_computed (c : Params) {s : State} (hs : s.seq = q) (hr : (s.computed c).seq = r) :
    s.w.kind.benign = true := by
  rw [State.computed_seq] at hr
  by_contra hb
  cases h <;> simp [operationDecision, initDecision, frameDecision, hs, hb, Pos.abort] at hr

/-- Index 41 is entered from the check of a benign kind of CMD55 only. -/
theorem check_of_enters_init (c : Params) {s : State} (hr : (busStep c s).seq = r) (hs : s.seq ≠ r) :
    s.seq = q ∧ s.w.kind.benign = true := by
  have hmem := busStep_seq_mem c (s := s) (by rw [hr]; exact hs.symm)
  rw [hr] at hmem
  have hline : (s.computed c).seq = r := h.eq_of_init_mem_successors hmem
  have hdec := s.computed_seq_mem c
  rw [hline] at hdec
  have hcheck : s.seq = q := (h.eq_of_init_mem_decisions hdec).resolve_right hs
  exact ⟨hcheck, h.benign_of_computed c hcheck hline⟩

/-- The check is entered from the return of CMD55's transaction only. -/
theorem return_of_enters_check (c : Params) {s : State} (hq : (busStep c s).seq = q) (hs : s.seq ≠ q) :
    s.seq = p ∧ (s.computed c).cmdSeq = .callReturn := by
  have hmoves : (busStep c s).seq ≠ s.seq := by rw [hq]; exact hs.symm
  have hmem := busStep_seq_mem c hmoves
  rw [hq] at hmem
  have hline : (s.computed c).seq = p := by
    refine (h.eq_of_check_mem_successors hmem).resolve_right fun e => ?_
    have hpure := s.computed_isPure c
    rw [e, h.isPure_check] at hpure
    cases hpure
  have hprefix : s.seq = p := State.seq_of_computed c hline h.isDecided_prefix
  exact ⟨hprefix, cmdSeq_of_leaves_call c (by rw [hprefix]; exact h.isCall_prefix) hmoves⟩

end PrefixPair

/-- Settles O23: both positions that send index 41 stand at the end of such a pair. -/
theorem initializationCommandFollowsThePrefix : Obligations.InitializationCommandFollowsThePrefix :=
  ⟨fun _ _ => seq_of_callOf_appInit, fun c _ =>
    ⟨PrefixPair.negotiation.check_of_enters_init c, PrefixPair.negotiation.return_of_enters_check c,
      fun hcs => ⟨(PrefixPair.alone hcs).check_of_enters_init c,
        (PrefixPair.alone hcs).return_of_enters_check c⟩⟩⟩

end Sys2Proof.Machine
end

section
/-! PROOFS. A transaction run with the guard not armed, said as one state, and the pair ACMD41 on its own
(O25). -/

namespace Sys2Proof.Machine

/-! ## What a transaction comes to -/

/-- The state that the transaction sending `k` returns in (R149): its bytes exchanged with the line
asserted, the line back at the caller's level, the kind and the payload kept (R124). -/
def State.transacted (k : Command) (s : State) : State :=
  let r := s.reply 0 k.index
  { State.sendAll { s with bt.csAsserted := true } (commandBytes k r) with
    bt := s.bt
    seq := s.seq.afterCall
    cmdSeq := .select
    w := { s.w.afterTransaction with
      kind := r.kind, payload := r.payload.getD 0#32, payloadHeld := r.payload.isSome } }

/-- A transaction sends the frame, and fill for each of its other transfers (R149). -/
theorem length_commandBytes (k : Command) (r : Reply) : (commandBytes k r).length = r.transfers := by
  have hle : params.frameLen ≤ r.transfers := by simp only [Reply.transfers]; omega
  rw [commandBytes, List.length_append, List.length_replicate,
    show (frameBytes params (encodeFrame k)).length = params.frameLen from rfl, Nat.add_sub_cancel' hle]

namespace State

variable (k : Command) (s : State)

@[simp] theorem transacted_ds : (s.transacted k).ds = s.ds := sendAll_ds _ _
@[simp] theorem transacted_tg : (s.transacted k).tg = s.tg := sendAll_tg _ _
@[simp] theorem transacted_bt : (s.transacted k).bt = s.bt := by rw [transacted]
@[simp] theorem transacted_seq : (s.transacted k).seq = s.seq.afterCall := rfl
@[simp] theorem transacted_cmdSeq : (s.transacted k).cmdSeq = .select := rfl
@[simp] theorem transacted_host : (s.transacted k).host = s.host := sendAll_host _ _
@[simp] theorem transacted_buffer : (s.transacted k).buffer = s.buffer := sendAll_buffer _ _
@[simp] theorem transacted_kind : (s.transacted k).w.kind = (s.reply 0 k.index).kind := rfl
@[simp] theorem transacted_payloadHeld :
    (s.transacted k).w.payloadHeld = (s.reply 0 k.index).payload.isSome := rfl

theorem transacted_trace : (s.transacted k).trace =
    s.trace ++ s.exchange true s.bt.divider 0 (commandBytes k (s.reply 0 k.index)) :=
  sendAll_trace { s with bt.csAsserted := true } _

/-- The answers after a transaction are those after its transfers. -/
theorem answer_transacted (n : Nat) :
    (s.transacted k).answer n = s.answer ((s.reply 0 k.index).transfers + n) := by
  rw [← length_commandBytes k]
  exact answer_sendAll { s with bt.csAsserted := true } _ n

end State

/-- The agents' steps over a transaction, the guard not armed. -/
theorem runSteps_transaction {k : Command} {s : State} (hk : s.callOf params = some k)
    (hs : s.cmdSeq = .select) (ha : s.tg.armed = false) :
    runSteps params (s.reply 0 k.index).steps s = s.transacted k :=
  runSteps_of_callRun_disarmed params (transaction_run hk hs) ha

/-- A transaction polls ten bytes at most and takes four of payload at most (R120, R123). -/
theorem steps_reply_le (s : State) (start : Nat) (index : BitVec 6) :
    (s.reply start index).steps ≤ 26 := by
  have hpolls : (s.reply start index).polls ≤ 10 := (pollStatus_bounds _ 10 _).2
  unfold Reply.steps Reply.transfers
  simp only [params]
  split <;> omega

/-- A command without a payload is answered without one (R75). -/
theorem payload_reply_eq_none {index : BitVec 6} (h : payloadLen params index = 0) (s : State) (n : Nat) :
    (s.reply n index).payload = none := by
  simp [State.reply, h]

/-- The reply depends on the answers from its start on only. -/
theorem reply_eq_of_answer {s t : State} {n : Nat} (h : ∀ i, t.answer i = s.answer (n + i))
    (index : BitVec 6) : t.reply 0 index = s.reply n index := by
  simp [State.reply, h, Nat.add_assoc]

/-- Events in two runs, the second's answers standing after the first's. -/
theorem exchange_append (s : State) (cs : Bool) (d : Divider) (n : Nat) (l l' : List Byte) :
    s.exchange cs d n (l ++ l') = s.exchange cs d n l ++ s.exchange cs d (n + l.length) l' := by
  simp [State.exchange, List.mapIdx_append, Nat.add_comm, Nat.add_left_comm]

theorem exchange_eq_of_answer {s t : State} {n : Nat} (h : ∀ i, t.answer i = s.answer (n + i))
    (cs : Bool) (d : Divider) (l : List Byte) : t.exchange cs d 0 l = s.exchange cs d n l := by
  simp [State.exchange, h]

/-! ## A pure computation and a return in a run -/

/-- A run from a pure line is the run from the line that it computes (R9). -/
theorem runSteps_computed (c : Params) (n : Nat) {s t : State} (ha : s.tg.armed = false)
    (ht : s.computed c = t) (hs : s.seq.resting = false) (hr : t.seq.resting = false)
    (hc : t.cmdSeq = .select) : runSteps c (n + 1) s = runSteps c (n + 1) t := by
  have hat : t.tg.armed = false := by rw [← ht, State.computed_tg]; exact ha
  have hp : t.seq.isPure = false := by rw [← ht]; exact s.computed_isPure c
  rw [runSteps_succ c n hs, runSteps_succ c n hr, busStep_disarmed c ha, busStep_disarmed c hat,
    sequencerStep_eq c hs, sequencerStep_eq c hr, ht, t.computed_self c hp hc]

/-- The return of a command called on its own keeps its kind and payload and clears the other working
registers (log entries 4, 7). -/
theorem frameStep_of_return {s : State} (h : s.seq = .frameReturn) : frameStep s =
    { s with
      seq := .idle
      w := { Work.reset with
        kind := s.w.kind, payload := s.w.payload, payloadHeld := s.w.payloadHeld } } := by
  simp [frameStep, h]

/-- A command called on its own returns in one step. -/
theorem runSteps_frameReturn (c : Params) {s : State} (hq : s.seq = .frameReturn)
    (hc : s.cmdSeq = .select) (ha : s.tg.armed = false) : runSteps c 1 s = frameStep s := by
  have hr : s.seq.resting = false := by rw [hq]; rfl
  rw [runSteps_succ c 0 hr, runSteps_zero, busStep_disarmed c ha,
    sequencerStep_line c hr (by rw [hq]; rfl) hc]
  simp [lineStep, State.callOf, hq]

/-- The check of CMD55's kind: index 41 after a benign one, else the return (R80, D14). -/
theorem computed_framePrefixCheck (c : Params) {s : State} {hcs : Bool}
    (hq : s.seq = .framePrefixCheck hcs) (hc : s.cmdSeq = .select) : s.computed c =
      { s with seq := if s.w.kind.benign then .frameInit hcs else .frameReturn } := by
  rw [State.computed, commandDecision_of_select _ c (by rw [operationDecision_cmdSeq, hc])]
  cases hb : s.w.kind.benign <;> simp [operationDecision, frameDecision, hq, hb]

/-- A run has steps enough for two transactions and a return (R251). -/
theorem State.le_fuel (s : State) : 53 ≤ s.fuel params := by
  simp only [State.fuel, params]; omega

/-! ## The pair ACMD41 -/

/-- The state after CMD55's transaction and the check of its kind: at index 41 after a benign one, else at
the return (R80, D14). -/
def State.prefixChecked (hcs : Bool) (s : State) : State :=
  { s.transacted (appPrefixCommand params) with
    seq := if (s.reply 0 params.idxAppPrefix).kind.benign then .frameInit hcs else .frameReturn }

/-- The state in which the last transaction of the pair, begun in `s`, has returned (R80). -/
def State.pairReturned (hcs : Bool) (s : State) : State :=
  if (s.reply 0 params.idxAppPrefix).kind.benign then
    (s.prefixChecked hcs).transacted (appInitCommand params hcs)
  else s.prefixChecked hcs

section Pair

variable {s : State} (hcs : Bool)

/-- The check's computation, after CMD55's transaction. -/
theorem computed_prefix_transacted (hq : s.seq = .framePrefix hcs) :
    (s.transacted (appPrefixCommand params)).computed params = s.prefixChecked hcs := by
  have hcheck : (s.transacted (appPrefixCommand params)).seq = .framePrefixCheck hcs := by
    rw [State.transacted_seq, hq]; rfl
  rw [computed_framePrefixCheck params hcheck rfl]
  rfl

/-- The pair returns with nothing changed but the working registers, the events and the environment. -/
theorem State.pairReturned_frame (s : State) : (s.pairReturned hcs).seq = .frameReturn ∧
    (s.pairReturned hcs).cmdSeq = .select ∧ (s.pairReturned hcs).bt = s.bt ∧
    (s.pairReturned hcs).ds = s.ds ∧ (s.pairReturned hcs).tg = s.tg ∧
    (s.pairReturned hcs).host = s.host ∧ (s.pairReturned hcs).buffer = s.buffer := by
  cases hb : (s.reply 0 params.idxAppPrefix).kind.benign <;>
    simp [State.pairReturned, State.prefixChecked, hb, Pos.afterCall]

/-- From the check on, the pair runs the transaction of index 41, if it leads there. -/
theorem runSteps_prefixChecked (s : State) (ha : s.tg.armed = false) :
    ∃ m ≤ 26, runSteps params m (s.prefixChecked hcs) = s.pairReturned hcs := by
  unfold State.pairReturned
  split
  · next hb =>
    refine ⟨_, steps_reply_le _ _ _, runSteps_transaction ?_ rfl ?_⟩
    · simp [State.callOf, State.prefixChecked, hb]
    · simp [State.prefixChecked, ha]
  · exact ⟨0, by omega, rfl⟩

/-- The run of the pair: CMD55's transaction, the check, perhaps that of index 41, and the return. -/
theorem runSteps_pair (hq : s.seq = .framePrefix hcs) (hc : s.cmdSeq = .select)
    (ha : s.tg.armed = false) : ∃ n ≤ 53, runSteps params n s = frameStep (s.pairReturned hcs) := by
  obtain ⟨hseq, hplace, -, -, htg, -, -⟩ := s.pairReturned_frame hcs
  obtain ⟨m, hm, hsecond⟩ := runSteps_prefixChecked hcs s ha
  have hfirst := runSteps_transaction (k := appPrefixCommand params) (by simp [State.callOf, hq]) hc ha
  have hcheck := runSteps_computed params m (by rwa [State.transacted_tg])
    (computed_prefix_transacted hcs hq) (by rw [State.transacted_seq, hq]; rfl)
    (by unfold State.prefixChecked; dsimp only; split <;> rfl) rfl
  have hle := steps_reply_le s 0 (appPrefixCommand params).index
  refine ⟨(s.reply 0 (appPrefixCommand params).index).steps + (m + 1), by omega, ?_⟩
  rw [runSteps_add, hfirst, hcheck, runSteps_add, hsecond]
  exact runSteps_frameReturn params hseq hplace (by rw [htg, ha])

/-- No command of the pair has a payload. -/
theorem State.pairReturned_payloadHeld (s : State) : (s.pairReturned hcs).w.payloadHeld = false := by
  unfold State.pairReturned
  split
  · rw [State.transacted_payloadHeld, payload_reply_eq_none (by rfl)]; rfl
  · rw [State.prefixChecked, State.transacted_payloadHeld, payload_reply_eq_none (by rfl)]; rfl

/-- After a benign kind of CMD55 the pair's kind is that of index 41, and both transactions are recorded. -/
theorem State.pairReturned_of_benign (hb : (s.reply 0 params.idxAppPrefix).kind.benign = true) :
    let p := s.reply 0 params.idxAppPrefix
    let q := s.reply p.transfers params.idxAppInit
    (s.pairReturned hcs).w.kind = q.kind ∧
    (s.pairReturned hcs).trace = s.trace ++ s.exchange true s.bt.divider 0
      (commandBytes (appPrefixCommand params) p ++ commandBytes (appInitCommand params hcs) q) := by
  intro p q
  have hans : ∀ i, (s.prefixChecked hcs).answer i = s.answer (p.transfers + i) :=
    s.answer_transacted (appPrefixCommand params)
  have hq : (s.prefixChecked hcs).reply 0 (appInitCommand params hcs).index = q :=
    reply_eq_of_answer hans _
  have hbt : (s.prefixChecked hcs).bt = s.bt := s.transacted_bt (appPrefixCommand params)
  have htrace : (s.prefixChecked hcs).trace = _ := s.transacted_trace (appPrefixCommand params)
  rw [State.pairReturned, if_pos hb, State.transacted_kind, State.transacted_trace, hq, hbt, htrace,
    exchange_append, exchange_eq_of_answer hans, length_commandBytes, Nat.zero_add, List.append_assoc]
  exact ⟨rfl, rfl⟩

/-- After any other kind of CMD55 its transaction is recorded alone, and the pair's kind is its own. -/
theorem State.pairReturned_of_not_benign (hb : ¬ (s.reply 0 params.idxAppPrefix).kind.benign = true) :
    let p := s.reply 0 params.idxAppPrefix
    (s.pairReturned hcs).w.kind = p.kind ∧
    (s.pairReturned hcs).trace =
      s.trace ++ s.exchange true s.bt.divider 0 (commandBytes (appPrefixCommand params) p) := by
  rw [State.pairReturned, if_neg hb]
  exact ⟨rfl, s.transacted_trace (appPrefixCommand params)⟩

/-- ACMD41 on its own answers what the pair returns. -/
theorem exec_acmd41 (hr : s.seq.resting = true) (he : s.bt.enabled = true) (hg : s.GuardDiscipline) :
    exec (.acmd41 hcs) s =
      .next (frameStep ((s.startAt (.framePrefix hcs) Work.reset).pairReturned hcs)) := by
  have hguarded : s.seq.guarded = false := by cases hq : s.seq <;> simp [hq, Pos.resting] at hr <;> rfl
  obtain ⟨n, hn, hrun⟩ :=
    runSteps_pair (s := s.startAt (.framePrefix hcs) Work.reset) hcs rfl rfl (hg.disarmed hguarded)
  obtain ⟨hseq, -⟩ := (s.startAt (.framePrefix hcs) Work.reset).pairReturned_frame hcs
  have hrest : (runSteps params n (s.startAt (.framePrefix hcs) Work.reset)).seq.resting = true := by
    rw [hrun, frameStep_of_return hseq]; rfl
  refine callAlone_next.2 ⟨hr, he, ?_⟩
  rw [State.runFrom, runSteps_of_le params hrest (hn.trans s.le_fuel), hrun]

end Pair

/-- Settles O25: the pair runs CMD55's transaction and, if the check lets it through, that of index 41; its
return keeps the kind that the last of them left. -/
theorem initializationPairCompletes : Obligations.InitializationPairCompletes := by
  intro hcs s hr he hg
  have hexec := exec_acmd41 hcs hr he hg
  obtain ⟨hseq, -, hbt, hds, htg, hhost, hbuffer⟩ :=
    (s.startAt (.framePrefix hcs) Work.reset).pairReturned_frame hcs
  rw [frameStep_of_return hseq] at hexec
  refine ⟨_, hexec, rfl, ?_, State.pairReturned_payloadHeld hcs _, hbt, hds, htg, hhost, hbuffer⟩
  dsimp only
  split
  · next hb => exact State.pairReturned_of_benign (s := s.startAt _ _) hcs hb
  · next hb => exact State.pairReturned_of_not_benign (s := s.startAt _ _) hcs hb

end Sys2Proof.Machine
end

section
/-! PROOFS. The command encoder: the six bytes of a frame (O1), and its framing bits and operands read back
from them (O2). -/

namespace Sys2Proof

open Machine (params)

/-! ## The bytes of a frame -/

/-- Bit `n` of byte `i` in the frame word (R71). -/
theorem getLsbD_frameByte (w : Frame) (i : Nat) {n : Nat} (hn : n < 8) :
    (frameByte w i).getLsbD n = w.getLsbD (8 * (5 - i) + n) := by
  rw [frameByte, BitVec.getLsbD_extractLsb', decide_eq_true hn, Bool.true_and]

/-- The bits of byte `i` from bit `start` on, in the frame word (R71). -/
theorem extractLsb'_frameByte (w : Frame) (i : Nat) {start len : Nat} (h : start + len ≤ 8) :
    (frameByte w i).extractLsb' start len = w.extractLsb' (8 * (5 - i) + start) len := by
  apply BitVec.eq_of_getLsbD_eq
  intro n hn
  rw [BitVec.getLsbD_extractLsb', BitVec.getLsbD_extractLsb', getLsbD_frameByte _ _ (by omega), Nat.add_assoc]

/-- The bytes sent of a frame put together from six bytes are those six, in their order (R70, R71). -/
theorem frameBytes_frameOfBytes (b0 b1 b2 b3 b4 b5 : Byte) :
    frameBytes params (frameOfBytes b0 b1 b2 b3 b4 b5) = [b0, b1, b2, b3, b4, b5] := by
  refine List.ext_getElem rfl fun i hi _ => BitVec.eq_of_getLsbD_eq fun n hn => ?_
  have hlen : i < 6 := hi
  simp only [frameBytes, List.getElem_map, List.getElem_range]
  rw [getLsbD_frameByte _ _ hn, getLsbD_frameOfBytes]
  interval_cases i <;>
    simp (disch := omega) only [if_pos, if_neg, Nat.add_sub_cancel_left, Nat.sub_self, Nat.mul_zero,
      Nat.zero_add] <;>
    rfl

/-- The operand fields of a frame, read from its six bytes (R71, R110). -/
theorem frameCommand_eq_of_bytes (w : Frame) : frameCommand w =
    { index := (frameByte w 0).extractLsb' 0 6
      arg := frameByte w 1 ++ frameByte w 2 ++ frameByte w 3 ++ frameByte w 4
      check := (frameByte w 5).extractLsb' 1 7 } := by
  have harg : frameByte w 1 ++ frameByte w 2 ++ frameByte w 3 ++ frameByte w 4 = w.extractLsb' 8 32 := by
    unfold frameByte
    rw [BitVec.extractLsb'_append_extractLsb'_eq_extractLsb',
      BitVec.extractLsb'_append_extractLsb'_eq_extractLsb',
      BitVec.extractLsb'_append_extractLsb'_eq_extractLsb'] <;> rfl
  rw [extractLsb'_frameByte w 0 (by decide), harg, extractLsb'_frameByte w 5 (by decide), frameCommand]

/-! ## The encoder -/

/-- Settles O1: the encoder puts together the six bytes, which are sent as they stand. -/
theorem encoderBuildsTheSixBytes : Obligations.EncoderBuildsTheSixBytes := by
  intro k
  rw [encodeFrame_eq, frameBytes_frameOfBytes]

/-- Settles O2: an encoded frame is framed, and the fields that its bytes hold are its operands, so the
encoder has a left inverse. -/
theorem encoderIsInjective : Obligations.EncoderIsInjective := by
  refine ⟨fun k => ?_, fun k k' h => Function.LeftInverse.injective frameCommand_encodeFrame h⟩
  obtain ⟨hstart, htrans, hstop⟩ := framed_encodeFrame k
  have hfields := (frameCommand_eq_of_bytes (encodeFrame k)).symm.trans (frameCommand_encodeFrame k)
  refine ⟨List.head_eq_of_cons_eq (encoderBuildsTheSixBytes k), ?_, ?_, ?_,
    congrArg Command.index hfields, congrArg Command.arg hfields, congrArg Command.check hfields⟩
  · rw [getLsbD_frameByte _ _ (by decide)]; exact hstart
  · rw [getLsbD_frameByte _ _ (by decide)]; exact htrans
  · rw [getLsbD_frameByte _ _ (by decide)]; exact hstop

end Sys2Proof
end

section
/-! PROOFS. The response decoder family: the highest set bit of a status byte decides its kind (O7). -/

namespace Sys2Proof.Machine

/-- Settles O7: with every bit above bit `n` clear, the tests before that of bit `n` fail, and that test
succeeds. -/
theorem highestStatusBitDecides : Obligations.HighestStatusBitDecides := by
  refine ⟨rfl, fun s n hset habove => ?_⟩
  have hclear : ∀ m (hm : m < 8), n.val < m → s.getLsbD m = false :=
    fun m hm hlt => habove ⟨m, hm⟩ hlt
  unfold decodeStatus
  fin_cases n <;>
    simp (disch := decide) only [hclear, hset, Bool.false_eq_true, if_true, if_false]

end Sys2Proof.Machine
end

section
/-! PROOFS. The Timeout Guard: what `Arm`, `Disarm` and the handler do (O12, O13), and the discipline that
every step of the machine keeps (O56). -/

namespace Sys2Proof.Machine

/-! ## The guard's three operations -/

/-- Settles O12: `Arm` and `Disarm` write the guard, and `Arm` the environment's countdown. -/
theorem armAndDisarmTheGuard : Obligations.ArmAndDisarmTheGuard := by
  intro s d
  exact ⟨s.arm_tg d, s.arm_countdown d, rfl, s.disarm_tg, s.disarm.handlerDue_of_disarmed rfl, rfl⟩

/-- Settles O13: the handler is due only while the guard is armed, and then once the countdown is over. -/
theorem handlerStepsOnlyWhileArmed : Obligations.HandlerStepsOnlyWhileArmed := by
  refine fun c s => ⟨fun hdue => ?_, fun harmed => ?_, busStep_disarmed c⟩
  · obtain ⟨harmed, -⟩ := s.handlerDue_iff.1 hdue
    exact ⟨harmed, by rw [busStep, if_pos hdue]; rfl⟩
  · have hdue : State.handlerDue { s with env.countdown := 0 } = true :=
      (State.handlerDue_iff _).2 ⟨harmed, rfl⟩
    rw [busStep, if_pos hdue]; rfl

/-! ## The guarded positions -/

/-- The lines that are an `Arm` (R175, R204). -/
def Pos.arms : Pos → Bool
  | .initS4Arm => true
  | .readArm => true
  | _ => false

/-- The lines that are a `Disarm` (R175, R204, R252). -/
def Pos.disarms : Pos → Bool
  | .initS4Disarm => true
  | .initAbort => true
  | .readWaitDisarm => true
  | .readAbortDisarm => true
  | _ => false

/-- The step of a line writes the guard by an `Arm` or a `Disarm` only (R152, R153). -/
theorem lineStep_tg_eq (c : Params) (s : State) : (lineStep c s).tg =
    if s.seq.arms then ⟨false, true⟩ else if s.seq.disarms then ⟨s.tg.expired, false⟩ else s.tg := by
  rw [lineStep_tg]
  cases s.seq <;> rfl

/-- An `Arm` leads to a guarded position. -/
theorem guarded_of_mem_successors_arms {q : Pos} (hq : q.arms = true) :
    ∀ p ∈ q.successors, p.guarded = true := by
  cases q <;> simp [Pos.arms] at hq <;> simp [Pos.successors, Pos.guarded]

/-- A `Disarm` leads out of the guarded wait. -/
theorem not_waiting_of_mem_successors_disarms {q : Pos} (hq : q.disarms = true) :
    ∀ p ∈ q.successors, p.waiting = false := by
  cases q <;> simp [Pos.disarms] at hq <;> simp [Pos.successors, Pos.waiting]

/-- The guarded positions are left by a `Disarm` only. -/
theorem guarded_of_mem_successors {q : Pos} (hd : q.disarms = false) :
    ∀ p ∈ q.successors, q.guarded = true → p.guarded = true := by
  cases q <;> simp [Pos.disarms] at hd <;> simp [Pos.successors, Pos.guarded]

/-- A guarded wait is entered by an `Arm` only. -/
theorem waiting_of_mem_successors {q : Pos} (ha : q.arms = false) :
    ∀ p ∈ q.successors, p.waiting = true → q.waiting = true := by
  cases q <;> simp [Pos.arms] at ha <;> simp [Pos.successors, Pos.waiting]

/-- A pure computation enters or leaves no guarded position. -/
theorem guarded_of_mem_decisions (q : Pos) : ∀ p ∈ q.decisions, p.guarded = q.guarded := by
  cases q <;> simp [Pos.decisions, Pos.guarded]

/-- A pure computation enters no guarded wait. -/
theorem waiting_of_mem_decisions (q : Pos) : ∀ p ∈ q.decisions, p.waiting = true → q.waiting = true := by
  cases q <;> simp [Pos.decisions, Pos.waiting]

theorem guarded_of_resting {p : Pos} (h : p.resting = true) : p.guarded = false := by
  cases p <;> simp [Pos.resting] at h <;> rfl

/-! ## The discipline -/

namespace State

/-- With the guard not armed, all that is asked is that a guarded wait has seen it expire. -/
theorem guardDiscipline_of_disarmed {s : State} (ha : s.tg.armed = false)
    (hw : s.seq.waiting = true → s.tg.expired = true) : s.GuardDiscipline :=
  ⟨fun _ => ha, fun h => by simp [ha] at h, fun h => .inr (hw h)⟩

theorem guardDiscipline_expiryHandler (s : State) : s.expiryHandler.GuardDiscipline :=
  guardDiscipline_of_disarmed rfl fun _ => rfl

/-- No instruction begins in a guarded wait. -/
theorem guardDiscipline_begun {s : State} (i : Instr) (ha : s.tg.armed = false) :
    (s.begun i).GuardDiscipline := by
  cases i <;> exact guardDiscipline_of_disarmed ha nofun

namespace GuardDiscipline

variable {s : State} (h : s.GuardDiscipline)
include h

theorem disarmed_of_resting (hr : s.seq.resting = true) : s.tg.armed = false :=
  h.disarmed (guarded_of_resting hr)

theorem tick : s.tick.GuardDiscipline := by
  unfold GuardDiscipline at *
  rwa [tick_tg, tick_seq]

theorem computed (c : Params) : (s.computed c).GuardDiscipline := by
  obtain ⟨hflag, harmed, hwait⟩ := h
  have hmem := s.computed_seq_mem c
  unfold GuardDiscipline
  rw [computed_tg, guarded_of_mem_decisions _ _ hmem]
  exact ⟨hflag, harmed, fun hw => hwait (waiting_of_mem_decisions _ _ hmem hw)⟩

/-- The step of every line keeps the discipline: an `Arm` enters the guarded wait with the flag down, a
`Disarm` leaves it, and no other line writes the guard, enters the wait or leaves the guarded positions. -/
theorem lineStep (c : Params) : (lineStep c s).GuardDiscipline := by
  obtain ⟨hflag, harmed, hwait⟩ := h
  have hmem := lineStep_seq_mem s c
  have htg := lineStep_tg_eq c s
  cases harms : s.seq.arms with
  | true =>
    rw [harms, if_pos rfl] at htg
    exact ⟨by simp [htg], fun _ => guarded_of_mem_successors_arms harms _ hmem, by simp [htg]⟩
  | false =>
    rw [harms, if_neg Bool.false_ne_true] at htg
    cases hdisarms : s.seq.disarms with
    | true =>
      rw [hdisarms, if_pos rfl] at htg
      refine guardDiscipline_of_disarmed (by rw [htg]) fun hw => ?_
      simp [not_waiting_of_mem_successors_disarms hdisarms _ hmem] at hw
    | false =>
      rw [hdisarms, if_neg Bool.false_ne_true] at htg
      unfold GuardDiscipline
      rw [htg]
      exact ⟨hflag, fun ha => guarded_of_mem_successors hdisarms _ hmem (harmed ha),
        fun hw => hwait (waiting_of_mem_successors harms _ hmem hw)⟩

/-- Every agent's step keeps the discipline. -/
theorem busStep (c : Params) : (busStep c s).GuardDiscipline := by
  rcases busStep_cases c s with ⟨-, e⟩ | ⟨-, e⟩
  · rw [e]; exact s.guardDiscipline_expiryHandler
  · rw [e]
    cases hr : s.tick.seq.resting with
    | false => rw [sequencerStep_eq c hr]; exact (h.tick.computed c).lineStep c
    | true => rw [sequencerStep_resting c hr]; exact h.tick

/-- What an instruction run from a rest answers keeps the discipline: the guard is not armed there. -/
theorem exec {i : Instr} {t : State} (hr : s.seq.resting = true) (hexec : exec i s = .next t) :
    t.GuardDiscipline := by
  obtain ⟨-, m, hrun⟩ := exec_next_run hexec
  rw [← hrun]
  exact runSteps_preserves params (P := GuardDiscipline) (fun _ h => h.busStep params) m
    (guardDiscipline_begun i (h.disarmed_of_resting hr))

/-- The host does not touch the guard. -/
theorem hostStep {t : State} (hstep : hostStep s = .next t) : t.GuardDiscipline := by
  obtain ⟨ht, -⟩ := hostStep_next hstep
  rw [ht]
  exact h

end GuardDiscipline

end State

/-- Settles O56: at `Idle` and at `frameFetch` the guard is not armed when an instruction begins, and every
agent's step keeps the discipline from there. -/
theorem stepKeepsGuardDiscipline : Obligations.StepKeepsGuardDiscipline := by
  intro s t h hstep
  unfold step at hstep
  split at hstep
  · next hidle =>
    cases hreq : s.host.request with
    | none =>
      rcases idleStep_next hreq hstep with ⟨-, e⟩ | ⟨-, hhost⟩
      · rw [e]; exact s.guardDiscipline_expiryHandler
      · exact h.tick.hostStep hhost
    | some r =>
      simp only [idleStep, hreq] at hstep
      have haccepted : State.GuardDiscipline { s with host.request := none } := h
      exact haccepted.exec (by simp [hidle, Pos.resting]) hstep
  · next w hfetch =>
    unfold fetchStep at hstep
    split at hstep
    · exact h.exec (by simp [hfetch, Pos.resting]) hstep
    · cases hstep
  · rw [(progressStep_next hstep).1]
    exact h.busStep params

end Sys2Proof.Machine
end

section
/-! PROOFS. Chip-select and transfer (O10, O11), and the operands and the frame in flight of a transaction
(O21). -/

namespace Sys2Proof.Machine

/-! ## The primitives -/

/-- Settles O10: a `Restore` puts the line to the register that its `Select` saved the level in; the two
levels have a register each. -/
theorem restoreGivesBackTheSelectedLevel : Obligations.RestoreGivesBackTheSelectedLevel :=
  fun _ => ⟨rfl, rfl, rfl, rfl, fun _ houter => houter, fun _ hinner => hinner, rfl, rfl⟩

/-- Settles O11: a transfer appends its event and takes one answer off the tape. -/
theorem transferRecordsOneEvent : Obligations.TransferRecordsOneEvent := by
  intro s b
  rw [State.answer_zero]
  exact ⟨s.xfer_trace b, rfl, rfl, rfl, rfl, rfl, rfl, rfl, rfl, s.answer_xfer b⟩

/-! ## The operands and the frame in flight -/

variable (c : Params)

/-- The command sent depends on the position, the address and the card version only (R79). -/
theorem callOf_congr {s t : State} (hseq : s.seq = t.seq) (haddress : s.w.address = t.w.address)
    (hversion : s.w.cardVersion = t.w.cardVersion) : s.callOf c = t.callOf c := by
  simp only [State.callOf, hseq, haddress, hversion]

/-- Between its `Select` and its return a transaction writes the status, the kind, the payload and the
counters, and no other working register. -/
theorem transactionStep_w (k : Command) {s : State} (hselect : s.cmdSeq ≠ .select)
    (hreturn : s.cmdSeq ≠ .callReturn) : (transactionStep c k s).w =
    { s.w with
      status := (transactionStep c k s).w.status
      kind := (transactionStep c k s).w.kind
      payload := (transactionStep c k s).w.payload
      payloadHeld := (transactionStep c k s).w.payloadHeld
      pollCount := (transactionStep c k s).w.pollCount
      byteCount := (transactionStep c k s).w.byteCount } := by
  cases hq : s.cmdSeq <;> simp only [transactionStep, hq]
  case select => exact absurd hq hselect
  case callReturn => exact absurd hq hreturn
  case send => rw [State.cmdSend_w]
  case payload => rw [State.cmdPayload_w]; dsimp only; split <;> rfl
  all_goals rfl

namespace State

/-- The encoder's operands as they stand in their registers (R31). -/
def operands (s : State) : Command := ⟨s.w.cmdIndex, s.w.cmdArg, s.w.cmdChk⟩

/-- Inside a transaction whose next byte, if it is one of the frame, is encoded: the operands are those of
the command the position sends, and the frame is their encoding. -/
def FrameEncoded (s : State) : Prop :=
  s.cmdSeq ≠ .select → s.callOf params = some s.operands ∧ s.w.frame = encodeFrame s.operands

/-- The frame is encoded before its first byte, and then stays as it is (R9, R100). -/
theorem commandDecision_frame (s : State) : (commandDecision c s).w.frame =
    if s.cmdSeq = .send ∧ s.w.byteCount = 0#10 then encodeFrame s.operands else s.w.frame := by
  unfold commandDecision encodeFirst pollDecision payloadDecision
  cases hq : s.cmdSeq <;> simp only [reduceCtorEq, false_and, true_and, if_false] <;> split <;> rfl

variable {s : State}

theorem frameFitsTheCaller_tick (h : s.FrameFitsTheCaller) : s.tick.FrameFitsTheCaller := by
  unfold State.tick
  split <;> exact h

/-- The pure computations encode the frame, if its first byte is next. -/
theorem FrameFitsTheCaller.computed (h : s.FrameFitsTheCaller) : (s.computed params).FrameEncoded := by
  intro hplace
  obtain ⟨hcall, hframe⟩ := h fun hselect => hplace (s.computed_cmdSeq_of_select params hselect)
  have hoperands : (commandDecision params s).operands = s.operands := by
    rw [operands, commandDecision_w, operands]
  rw [s.computed_of_line params (isPure_of_isCall (isCall_of_callOf params hcall)),
    callOf_commandDecision, hoperands, commandDecision_frame]
  refine ⟨hcall, ?_⟩
  split
  · rfl
  · next hlater => exact hframe.resolve_left hlater

/-- A transaction takes the operands at its `Select`, keeps them and the frame to its return, and leaves its
position there (R149). -/
theorem FrameEncoded.transactionStep {k : Command} (h : s.FrameEncoded)
    (hk : s.callOf params = some k) : (transactionStep params k s).FrameFitsTheCaller := by
  intro hplace
  by_cases hselect : s.cmdSeq = .select
  · have e : Machine.transactionStep params k s = s.cmdSelect k := by simp [Machine.transactionStep, hselect]
    rw [e]
    exact ⟨(callOf_congr params rfl rfl rfl).trans hk, .inl ⟨rfl, rfl⟩⟩
  · have hreturn : s.cmdSeq ≠ .callReturn := fun hreturn =>
      hplace (by rw [transactionStep_cmdSeq, hreturn])
    obtain ⟨hcall, hframe⟩ := h hselect
    have hseq : (Machine.transactionStep params k s).seq = s.seq := by
      rw [transactionStep_seq, if_neg hreturn]
    have hw := transactionStep_w params k hselect hreturn
    rw [callOf_congr params hseq (by rw [hw]) (by rw [hw]), hw]
    exact ⟨hcall, .inr hframe⟩

/-- The step of every line keeps the operands and the frame in flight: no line but a transaction's stands
inside a transaction. -/
theorem FrameEncoded.lineStep (h : s.FrameEncoded) : (lineStep params s).FrameFitsTheCaller := by
  cases hk : s.callOf params with
  | some k => rw [lineStep_of_call s params hk]; exact h.transactionStep hk
  | none =>
    intro hplace
    have hnotCall : s.seq.isCall = false := by rw [← callOf_isSome s params, hk]; rfl
    rcases lineStep_cmdSeq s params hnotCall with e | e
    · obtain ⟨hcall, -⟩ := h (e ▸ hplace)
      simp [hk] at hcall
    · exact absurd e hplace

end State

/-- Settles O21: the computations before a line encode the frame, and the line keeps it. -/
theorem frameInFlightFitsTheCaller : Obligations.FrameInFlightFitsTheCaller := by
  intro s h
  rcases busStep_cases params s with ⟨-, e⟩ | ⟨-, e⟩
  · rw [e]; exact h
  · have htick := State.frameFitsTheCaller_tick h
    rw [e]
    cases hr : s.tick.seq.resting with
    | false => rw [sequencerStep_eq params hr]; exact htick.computed.lineStep
    | true => rw [sequencerStep_resting params hr]; exact htick

end Sys2Proof.Machine
end

section
/-! PROOFS. The card commands called on their own: that each completes (O24), holds and restores the line
(O26), and when it is refused (O27). -/

namespace Sys2Proof.Machine

/-! ## One transaction and its return -/

/-- A row of R79 that is one frame calls its command on its own (log entry 4). -/
theorem exec_of_sentCommand {i : Instr} {k : Command} (h : sentCommand i = some k) :
    ∃ (p : CardCommand) (w : Work), p.command params w.address = k ∧
      ∀ s, exec i s = s.callAlone (s.runFrom params (.frameCommand p) w) := by
  cases i <;> cases h
  case cmd0 => exact ⟨.reset, _, rfl, fun _ => rfl⟩
  case cmd8 => exact ⟨.ifCond, _, rfl, fun _ => rfl⟩
  case cmd16 => exact ⟨.setBlocklen, _, rfl, fun _ => rfl⟩
  case cmd17 => exact ⟨.readSingle, _, rfl, fun _ => rfl⟩
  case cmd55 => exact ⟨.appPrefix, _, rfl, fun _ => rfl⟩
  case cmd58 => exact ⟨.readOcr, _, rfl, fun _ => rfl⟩

/-- A run that comes to rest within the bound of steps is the run to the return (R251). -/
theorem runFrom_eq {s t : State} {p : Pos} {w : Work} {n : Nat} (hn : n ≤ s.fuel params)
    (hrun : runSteps params n (s.startAt p w) = t) (ht : t.seq.resting = true) :
    s.runFrom params p w = t := by
  rw [State.runFrom, runSteps_of_le params (by rwa [hrun]) hn, hrun]

@[simp] theorem State.reply_startAt (s : State) (p : Pos) (w : Work) (n : Nat) (index : BitVec 6) :
    (s.startAt p w).reply n index = s.reply n index := rfl

@[simp] theorem State.exchange_startAt (s : State) (p : Pos) (w : Work) (cs : Bool) (d : Divider) (n : Nat)
    (l : List Byte) : (s.startAt p w).exchange cs d n l = s.exchange cs d n l := rfl

@[simp] theorem State.transacted_payload (k : Command) (s : State) :
    (s.transacted k).w.payload = (s.reply 0 k.index).payload.getD 0#32 := rfl

/-- A command called on its own runs its transaction and returns (R149). -/
theorem runFrom_frameCommand {s : State} {p : CardCommand} {w : Work} (ha : s.tg.armed = false) :
    s.runFrom params (.frameCommand p) w =
      frameStep ((s.startAt (.frameCommand p) w).transacted (p.command params w.address)) := by
  have hfirst := runSteps_transaction (k := p.command params w.address)
    (s := s.startAt (.frameCommand p) w) rfl rfl ha
  have hreturn := runSteps_frameReturn params
    (s := (s.startAt (.frameCommand p) w).transacted (p.command params w.address)) rfl rfl
    (by rwa [State.transacted_tg])
  have hsteps := steps_reply_le (s.startAt (.frameCommand p) w) 0 (p.command params w.address).index
  have hfuel := s.le_fuel
  rw [← hfirst, ← runSteps_add, hfirst] at hreturn
  exact runFrom_eq (by omega) hreturn (by rw [frameStep_of_return rfl]; rfl)

/-- Settles O24: the run is one transaction and its return, which keeps the kind and the payload. -/
theorem commandTransactionCompletes : Obligations.CommandTransactionCompletes := by
  intro i k s hsent hr he hg
  obtain ⟨p, w, rfl, hexec⟩ := exec_of_sentCommand hsent
  have hrun := runFrom_frameCommand (p := p) (w := w) (hg.disarmed_of_resting hr)
  rw [frameStep_of_return rfl] at hrun
  refine ⟨_, (hexec s).trans (callAlone_next.2 ⟨hr, he, hrun⟩), ?_⟩
  simp +contextual [State.transacted_trace]

/-! ## The line -/

theorem cs_of_mem_exchange {s : State} {cs : Bool} {d : Divider} {n : Nat} {l : List Byte} {e : Event}
    (h : e ∈ s.exchange cs d n l) : e.cs = cs := by
  obtain ⟨j, _, rfl⟩ := List.mem_mapIdx.1 h
  rfl

/-- Every transaction transfers its frame at least (R149). -/
theorem commandBytes_ne_nil (k : Command) (r : Reply) : commandBytes k r ≠ [] := by
  apply List.append_ne_nil_of_left_ne_nil
  exact List.ne_nil_of_length_pos (by decide : 0 < 6)

/-- Bytes exchanged with the line asserted are events of which each has the line asserted. -/
theorem exists_events_asserted {s t : State} {l : List Byte} (hl : l ≠ [])
    (htrace : t.trace = s.trace ++ s.exchange true s.bt.divider 0 l) :
    ∃ es, t.trace = s.trace ++ es ∧ es ≠ [] ∧ ∀ e ∈ es, e.cs = true :=
  ⟨_, htrace, by simpa [State.exchange] using hl, fun _ => cs_of_mem_exchange⟩

/-- Settles O26: each row that is sent completes as O24 and O25 say, its bytes exchanged with the line
asserted. -/
theorem transactionsAreSelectedAndRestored : Obligations.TransactionsAreSelectedAndRestored := by
  intro i s t hi hg hexec
  rcases hi with ⟨k, hsent⟩ | ⟨hcs, rfl⟩
  · obtain ⟨p, w, -, hcall⟩ := exec_of_sentCommand hsent
    obtain ⟨hr, he, -⟩ := callAlone_next.1 ((hcall s).symm.trans hexec)
    obtain ⟨t', hexec', -, htrace, -, -, -, hbt, -⟩ := commandTransactionCompletes i k s hsent hr he hg
    obtain rfl := Host.Outcome.next.inj (hexec'.symm.trans hexec)
    exact ⟨by rw [hbt], exists_events_asserted (commandBytes_ne_nil _ _) htrace⟩
  · obtain ⟨hr, he, -⟩ := callAlone_next.1 hexec
    obtain ⟨t', hexec', -, hpair, -, hbt, -⟩ := initializationPairCompletes hcs s hr he hg
    obtain rfl := Host.Outcome.next.inj (hexec'.symm.trans hexec)
    refine ⟨by rw [hbt], ?_⟩
    dsimp only at hpair
    split at hpair
    · exact exists_events_asserted (List.append_ne_nil_of_left_ne_nil (commandBytes_ne_nil _ _) _) hpair.2
    · exact exists_events_asserted (commandBytes_ne_nil _ _) hpair.2

/-! ## Refusals -/

theorem whenResting_inProgress {s : State} (run : State) (h : s.seq.resting = false) :
    s.whenResting run = .refused .operationInProgress := by
  simp [State.whenResting, h]

theorem callAlone_inProgress {s : State} (run : State) (h : s.seq.resting = false) :
    s.callAlone run = .refused .operationInProgress := by
  simp [State.callAlone, whenResting_inProgress, h]

theorem callAlone_disabled {s : State} (run : State) (h : s.seq.resting = true)
    (he : s.bt.enabled = false) : s.callAlone run = .refused .transportDisabled := by
  simp [State.callAlone, h, he]

/-- Every frame row is refused while an operation is in progress (R148). -/
theorem exec_inProgress {i : Instr} {k : Command} {s : State} (hk : i.command = some k)
    (hr : s.seq.resting = false) : exec i s = .refused .operationInProgress := by
  cases i <;> cases hk
  case cmdGeneric => exact whenResting_inProgress _ hr
  all_goals exact callAlone_inProgress _ hr

/-- Settles O27: a row that is sent is refused by the guard of the call, the bare encoder by that of the
rest. -/
theorem commandsAreRefusedWhenBusyOrDisabled : Obligations.CommandsAreRefusedWhenBusyOrDisabled := by
  refine ⟨fun i k s => exec_inProgress, fun i s hi hr he => ?_⟩
  rcases hi with ⟨k, hsent⟩ | ⟨hcs, rfl⟩
  · obtain ⟨p, w, -, hcall⟩ := exec_of_sentCommand hsent
    rw [hcall, callAlone_disabled _ hr he]
  · exact callAlone_disabled _ hr he

end Sys2Proof.Machine
end

section
/-! PROOFS. Runs that lead on: what composes a run of agents' steps out of lines, pure computations and
transactions, with the guard in whatever state (R9, R156). -/

namespace Sys2Proof.Machine

/-! ## Runs that lead on -/

/-- The agents come from `s` to `t` within `n` steps, the pure computations of `t`'s next step perhaps made:
every run from `t` that comes to rest is one from `s` of at most `n` steps more. -/
def State.LeadsTo (s : State) (n : Nat) (t : State) : Prop :=
  ∀ m, (runSteps params m t).seq.resting = true →
    ∃ m' ≤ n + m, runSteps params m' s = runSteps params m t

namespace State

variable {s t u : State}

theorem leadsTo_runSteps (n : Nat) (s : State) : s.LeadsTo n (runSteps params n s) :=
  fun m _ => ⟨n + m, le_rfl, runSteps_add params n m s⟩

theorem LeadsTo.trans {m n : Nat} (h : s.LeadsTo m t) (h' : t.LeadsTo n u) : s.LeadsTo (m + n) u := by
  intro k hk
  obtain ⟨k', hk', e'⟩ := h' k hk
  obtain ⟨k'', hk'', e''⟩ := h k' (by rwa [e'])
  exact ⟨k'', by omega, e''.trans e'⟩

/-- What leads to a rest runs to it. -/
theorem LeadsTo.exists_run {n : Nat} (h : s.LeadsTo n t) (ht : t.seq.resting = true) :
    ∃ m ≤ n, runSteps params m s = t :=
  h 0 ht

/-! ## The guard and the computations -/

/-- No pure computation looks at the guard (R9, R154). -/
theorem computed_withGuard (c : Params) (s : State) (tg : TimeoutGuard) (n : Nat) :
    (s.withGuard tg n).computed c = (s.computed c).withGuard tg n := by
  have h : operationDecision c (s.withGuard tg n) = (operationDecision c s).withGuard tg n := by
    simp only [operationDecision, initDecision, readDecision, frameDecision, versionDecision, modeDecision,
      negotiationDecision, probeDecision, readCheck, tokenDecision, withGuard_seq,
      show (s.withGuard tg n).w = s.w from rfl, show (s.withGuard tg n).ds = s.ds from rfl,
      show (s.withGuard tg n).host = s.host from rfl]
    repeat' split
    all_goals rfl
  rw [computed, h, commandDecision_withGuard, computed]

theorem computed_expiryHandler (c : Params) (s : State) :
    s.expiryHandler.computed c = (s.computed c).expiryHandler :=
  (computed_withGuard c s ⟨true, false⟩ s.env.countdown).trans (by rw [← s.computed_env c]; rfl)

theorem computed_of_select (c : Params) (hc : s.cmdSeq = .select) :
    s.computed c = operationDecision c s := by
  rw [computed, commandDecision_of_select _ c (by rw [operationDecision_cmdSeq, hc])]

theorem computed_computed (c : Params) (hc : s.cmdSeq = .select) :
    (s.computed c).computed c = s.computed c :=
  computed_self _ c (s.computed_isPure c) (s.computed_cmdSeq_of_select c hc)

/-- While the handler is not due, the computation is part of the agents' next step (R9). -/
theorem busStep_computed (c : Params) (hdue : s.handlerDue = false) (hc : s.cmdSeq = .select)
    (hs : s.seq.resting = false) (hr : (s.computed c).seq.resting = false) :
    busStep c (s.computed c) = busStep c s := by
  have hdue' : (s.computed c).handlerDue = false := by
    rw [handlerDue, computed_tg, computed_env]; exact hdue
  rw [busStep, hdue', busStep, hdue, if_neg Bool.false_ne_true, if_neg Bool.false_ne_true,
    sequencerStep_eq c (by rwa [tick_seq]), sequencerStep_eq c (by rwa [tick_seq]), computed_tick,
    computed_tick, computed_computed c hc]

/-- A pure line leads to the line that it computes, whether or not the handler steps between them. -/
theorem leadsTo_computed (hc : s.cmdSeq = .select) (hs : s.seq.resting = false)
    (hr : (s.computed params).seq.resting = false) : s.LeadsTo 0 (s.computed params) := by
  intro m hm
  refine ⟨m, by omega, ?_⟩
  cases m with
  | zero => simp [hr] at hm
  | succ m =>
    rw [runSteps_succ params m hr] at hm ⊢
    rw [runSteps_succ params m hs]
    cases hdue : s.handlerDue with
    | false => rw [busStep_computed params hdue hc hs hr]
    | true =>
      have hdue' : (s.computed params).handlerDue = true := by
        rw [handlerDue, computed_tg, computed_env]; exact hdue
      have he : busStep params s = s.expiryHandler := by rw [busStep, if_pos hdue]
      have he' : busStep params (s.computed params) = s.expiryHandler.computed params := by
        rw [busStep, if_pos hdue', computed_expiryHandler]
      rw [he'] at hm ⊢
      rw [he]
      have hr' : (s.expiryHandler.computed params).seq.resting = false := by
        rw [computed_expiryHandler]; exact hr
      cases m with
      | zero => simp [hr'] at hm
      | succ m =>
        exact runSteps_computed params m rfl rfl hs hr' (computed_cmdSeq_of_select _ params hc)

/-! ## One step and one transaction under the guard -/

theorem guardAfter_add (m n : Nat) (tg : TimeoutGuard) (countdown : Nat) :
    guardAfter (m + n) tg countdown =
      guardAfter n (guardAfter m tg countdown).1 (guardAfter m tg countdown).2 := by
  cases ha : tg.armed with
  | false => simp [guardAfter, ha]
  | true =>
    by_cases hm : m ≤ countdown
    · by_cases hmn : m + n ≤ countdown
      · have hn : n ≤ countdown - m := by omega
        simp [guardAfter, ha, hm, hmn, hn, Nat.sub_sub]
      · have hn : ¬ n ≤ countdown - m := by omega
        simp [guardAfter, ha, hm, hmn, hn]
    · have hmn : ¬ m + n ≤ countdown := by omega
      simp [guardAfter, ha, hm, hmn]

/-- One step of the sequencer, the handler having taken its own before it if its moment has come. -/
theorem runSteps_one (hs : s.seq.resting = false) :
    runSteps params (guardSteps 1 s.tg s.env.countdown) s =
      sequencerStep params (s.withGuard (guardAfter 1 s.tg s.env.countdown).1
        (guardAfter 1 s.tg s.env.countdown).2) := by
  cases ha : s.tg.armed with
  | false =>
    have hsteps : guardSteps 1 s.tg s.env.countdown = 1 := by simp [guardSteps, ha]
    have hguard : guardAfter 1 s.tg s.env.countdown = (s.tg, s.env.countdown) := by
      simp [guardAfter, ha]
    rw [hsteps, hguard, runSteps_succ params 0 hs, runSteps_zero, busStep_disarmed params ha]
    rfl
  | true =>
    rcases Nat.eq_zero_or_pos s.env.countdown with h0 | h0
    · have hsteps : guardSteps 1 s.tg s.env.countdown = 2 := by simp [guardSteps, ha, h0]
      have hguard : guardAfter 1 s.tg s.env.countdown = (⟨true, false⟩, 0) := by
        simp [guardAfter, ha, h0]
      have hexpired : busStep params s = s.withGuard ⟨true, false⟩ 0 := by
        rw [busStep, if_pos (s.handlerDue_iff.2 ⟨ha, h0⟩), ← h0]; rfl
      rw [hsteps, hguard, runSteps_succ params 1 hs, hexpired, runSteps_succ params 0 (by exact hs),
        runSteps_zero, busStep_disarmed params rfl]
    · have hsteps : guardSteps 1 s.tg s.env.countdown = 1 := by
        rw [guardSteps, if_neg fun h => absurd h.2 (by omega)]
      have hguard : guardAfter 1 s.tg s.env.countdown = (s.tg, s.env.countdown - 1) := by
        have h1 : 1 ≤ s.env.countdown := h0
        simp [guardAfter, ha, h1]
      rw [hsteps, hguard, runSteps_succ params 0 hs, runSteps_zero, busStep_armed params ha h0]
      rfl

/-- The agents' steps over a transaction, with the guard in whatever state. -/
theorem leadsTo_transaction {k : Command} (hk : s.callOf params = some k) (hc : s.cmdSeq = .select) :
    s.LeadsTo (guardSteps (s.reply 0 k.index).steps s.tg s.env.countdown)
      ((s.transacted k).withGuard
        (guardAfter (s.reply 0 k.index).steps s.tg s.env.countdown).1
        (guardAfter (s.reply 0 k.index).steps s.tg s.env.countdown).2) := by
  have hrun := runSteps_of_callRun params (transaction_run hk hc)
  rw [← show _ = (s.transacted k).withGuard _ _ from hrun]
  exact leadsTo_runSteps _ s

theorem leadsTo_transaction_disarmed {k : Command} (hk : s.callOf params = some k)
    (hc : s.cmdSeq = .select) (ha : s.tg.armed = false) : s.LeadsTo 26 (s.transacted k) := by
  intro m hm
  obtain ⟨m', hm', e⟩ := leadsTo_runSteps (s.reply 0 k.index).steps s m
    (by rwa [runSteps_transaction hk hc ha])
  have hle := steps_reply_le s 0 k.index
  exact ⟨m', by omega, by rw [e, runSteps_transaction hk hc ha]⟩

/-- A line outside a transaction, the guard not armed, is one step. -/
theorem leadsTo_lineStep (hs : s.seq.resting = false) (hp : s.seq.isPure = false)
    (hc : s.cmdSeq = .select) (ha : s.tg.armed = false) : s.LeadsTo 1 (lineStep params s) := by
  have h := leadsTo_runSteps 1 s
  rwa [runSteps_succ params 0 hs, runSteps_zero, busStep_disarmed params ha,
    sequencerStep_line params hs hp hc] at h

end State

end Sys2Proof.Machine
end

section
/-! PROOFS. `Initialize` step by step (R171 to R179): where it stands between two lines, and how it ends from
each line on, transaction by transaction. -/

namespace Sys2Proof.Machine

/-- The line of each addressing mode after the check of it (R177, R181). -/
def AddrMode.line : AddrMode → Pos
  | .byte => .initS6Blocklen
  | .block => .initS7Speed

theorem AddrMode.line_resting (mode : AddrMode) : mode.line.resting = false := by cases mode <;> rfl

namespace State

/-! ## The computations of `Initialize` -/

theorem modeDecision_eq (s : State) : s.modeDecision = { s with seq := s.ds.addressingMode.line } := by
  cases h : s.ds.addressingMode <;> simp [modeDecision, h, AddrMode.line]

section Computed

variable {u : State} (c : Params) (hc : u.cmdSeq = .select)
include hc

theorem computed_initS2Check (hq : u.seq = .initS2Check) : u.computed c =
    if u.w.kind = .idle then { u with seq := .initS3Probe } else u.raise u.w.kind.reported :=
  (computed_of_select c hc).trans (by simp [operationDecision, initDecision, hq])

theorem computed_initS3Check (hq : u.seq = .initS3Check) : u.computed c = u.probeDecision c :=
  (computed_of_select c hc).trans (by simp [operationDecision, initDecision, hq])

theorem computed_initS4PrefixCheck (hq : u.seq = .initS4PrefixCheck) : u.computed c =
    if u.w.kind.benign then { u with seq := .initS4Init } else u.raise u.w.kind :=
  (computed_of_select c hc).trans (by simp [operationDecision, initDecision, hq])

theorem computed_initS4InitCheck (hq : u.seq = .initS4InitCheck) :
    u.computed c = u.negotiationDecision :=
  (computed_of_select c hc).trans (by simp [operationDecision, initDecision, hq])

theorem computed_initVersionCheck (hq : u.seq = .initVersionCheck) : u.computed c = u.versionDecision :=
  (computed_of_select c hc).trans (by simp [operationDecision, initDecision, hq])

theorem computed_initS5Check (hq : u.seq = .initS5Check) : u.computed c =
    if u.w.kind.benign then { u with seq := .initS5Mode } else u.raise u.w.kind :=
  (computed_of_select c hc).trans (by simp [operationDecision, initDecision, hq])

theorem computed_initModeCheck (hq : u.seq = .initModeCheck) : u.computed c = u.modeDecision :=
  (computed_of_select c hc).trans (by simp [operationDecision, initDecision, hq])

theorem computed_initS6Check (hq : u.seq = .initS6Check) : u.computed c =
    if u.w.kind = .ok then { u with seq := .initS7Speed } else u.raise u.w.kind.reported :=
  (computed_of_select c hc).trans (by simp [operationDecision, initDecision, hq])

end Computed

/-! ## The second account -/

section Expected

variable {s : State} {pos : Nat} {sent : List Byte}

theorem expectBlocklen_of_ok (h : (s.reply pos params.idxSetBlocklen).kind = .ok) :
    s.expectBlocklen pos sent = ⟨none, .byte,
      sent ++ commandBytes (setBlocklenCommand params) (s.reply pos params.idxSetBlocklen)⟩ := by
  simp [expectBlocklen, h]

theorem expectBlocklen_of_ne (h : (s.reply pos params.idxSetBlocklen).kind ≠ .ok) :
    s.expectBlocklen pos sent = ⟨some (s.reply pos params.idxSetBlocklen).kind.reported, .byte,
      sent ++ commandBytes (setBlocklenCommand params) (s.reply pos params.idxSetBlocklen)⟩ := by
  simp [expectBlocklen, h]

/-- A version-1 card goes on from the negotiation to step 6 (R181). -/
theorem expectNegotiation_v1 {mode : AddrMode} {pos' : Nat} {more : List Byte}
    (h : s.negotiate false (s.nextDelay + 1) 0 pos = (none, pos', more)) :
    s.expectNegotiation .v1 mode pos sent = s.expectBlocklen pos' (sent ++ more) := by
  simp [expectNegotiation, h]

/-- A negotiation that fails is the end (R175, R179). -/
theorem expectNegotiation_of_failure {version : CardVersion} {mode : AddrMode} {k : ErrorKind} {pos' : Nat}
    {more : List Byte}
    (h : s.negotiate (version = .v2) (s.nextDelay + 1) 0 pos = (some k, pos', more)) :
    s.expectNegotiation version mode pos sent = ⟨some k, mode, sent ++ more⟩ := by
  simp [expectNegotiation, h]

section Ocr

variable {mode : AddrMode} {pos' : Nat} {more : List Byte}
  (h : s.negotiate true (s.nextDelay + 1) 0 pos = (none, pos', more))
include h

/-- Without a payload step 5 is the end (R176). -/
theorem expectNegotiation_v2_none (hr : (s.reply pos' params.idxReadOcr).payload = none) :
    s.expectNegotiation .v2 mode pos sent = ⟨some (s.reply pos' params.idxReadOcr).kind, mode,
      sent ++ more ++ commandBytes (readOcrCommand params) (s.reply pos' params.idxReadOcr)⟩ := by
  simp [expectNegotiation, h, hr]

theorem expectNegotiation_v2_block {ocr : Word}
    (hr : (s.reply pos' params.idxReadOcr).payload = some ocr) (hmode : ocrMode params ocr = .block) :
    s.expectNegotiation .v2 mode pos sent = ⟨none, .block,
      sent ++ more ++ commandBytes (readOcrCommand params) (s.reply pos' params.idxReadOcr)⟩ := by
  simp [expectNegotiation, h, hr, hmode]

theorem expectNegotiation_v2_byte {ocr : Word}
    (hr : (s.reply pos' params.idxReadOcr).payload = some ocr) (hmode : ocrMode params ocr = .byte) :
    s.expectNegotiation .v2 mode pos sent =
      s.expectBlocklen (pos' + (s.reply pos' params.idxReadOcr).transfers)
        (sent ++ more ++ commandBytes (readOcrCommand params) (s.reply pos' params.idxReadOcr)) := by
  simp [expectNegotiation, h, hr, hmode]

end Ocr

/-- The payload is read after a benign status exactly (R123). -/
theorem payload_reply_isSome {index : BitVec 6} (h : payloadLen params index = 4) (s : State) (n : Nat) :
    (s.reply n index).payload.isSome = (s.reply n index).kind.benign := by
  have hread : (s.reply n index).payload =
      if (s.reply n index).kind.benign && decide (payloadLen params index = 4) then some _ else none := rfl
  rw [hread, h]
  cases (s.reply n index).kind.benign <;> rfl

/-- A transaction's transfers are those of the bytes it sends. -/
theorem position_append (n : Nat) (sent : List Byte) (k : Command) (r : Reply) :
    n + (sent ++ commandBytes k r).length = n + sent.length + r.transfers := by
  rw [List.length_append, length_commandBytes, Nat.add_assoc]

end Expected

/-! ## Where `Initialize` stands, and how it ends -/

/-- `u` stands between two lines of the `Initialize` begun in `s`, after the ten transfers of `Init.s1_high`
and those that sent `sent`. -/
structure Initializing (s : State) (sent : List Byte) (u : State) : Prop where
  place : u.cmdSeq = .select
  initialized : u.ds.initialized = false
  transport : u.bt = ⟨false, .slow, true⟩
  events : u.trace = s.trace ++ s.exchange false .slow 0 (List.replicate 10 0xFF#8) ++
    s.exchange true .slow 10 sent
  answers : ∀ i, u.answer i = s.answer (10 + sent.length + i)
  buffer : u.buffer = s.buffer
  host : u.host = s.host

/-- `t` is the return of the `Initialize` begun in `s`, as `e` expects it (R170, R178, R179). -/
structure Initialized (s : State) (e : InitExpected) (t : State) : Prop where
  idle : t.seq = .idle
  host : t.host = { s.host with result := e.failure.elim .ok .err }
  driver : t.ds = ⟨e.failure.isNone, e.mode⟩
  transport : t.bt = ⟨false, if e.failure.isNone then .fast else .slow, true⟩
  events : t.trace = s.trace ++ s.exchange false .slow 0 (List.replicate 10 0xFF#8) ++
    s.exchange true .slow 10 e.sent
  disarmed : t.tg.armed = false
  buffer : t.buffer = s.buffer

/-- From `u` on the `Initialize` begun in `s` ends as `e` expects it, within `n` steps. -/
def EndsAs (s : State) (e : InitExpected) (n : Nat) (u : State) : Prop :=
  ∃ t, u.LeadsTo n t ∧ s.Initialized e t

variable {s u v : State} {sent : List Byte} {e : InitExpected} {m n : Nat}

theorem LeadsTo.mono (h : u.LeadsTo m v) (hmn : m ≤ n) : u.LeadsTo n v := by
  intro k hk
  obtain ⟨k', hk', e⟩ := h k hk
  exact ⟨k', by omega, e⟩

theorem LeadsTo.endsAs (h : u.LeadsTo m v) (h' : s.EndsAs e n v) : s.EndsAs e (m + n) u := by
  obtain ⟨t, ht, hend⟩ := h'
  exact ⟨t, h.trans ht, hend⟩

theorem EndsAs.mono (h : s.EndsAs e m u) (hmn : m ≤ n) : s.EndsAs e n u := by
  obtain ⟨t, ht, hend⟩ := h
  exact ⟨t, ht.mono hmn, hend⟩

/-- A line `p` outside a transaction, the guard not armed, leads to what its step comes to. -/
theorem leadsTo_line {p : Pos} (hq : u.seq = p) (hr : p.resting = false) (hp : p.isPure = false)
    (hc : u.cmdSeq = .select) (ha : u.tg.armed = false) (hv : lineStep params u = v) :
    u.LeadsTo 1 v :=
  hv ▸ leadsTo_lineStep (by rwa [hq]) (by rwa [hq]) hc ha

namespace Initializing

variable (h : s.Initializing sent u)
include h

/-- Where `Initialize` stands does not depend on the position and the working registers. -/
theorem moved (p : Pos) (w : Work) : s.Initializing sent { u with seq := p, w := w } := by
  obtain ⟨hplace, hinit, hbt, htrace, hans, hbuffer, hhost⟩ := h
  exact ⟨hplace, hinit, hbt, htrace, hans, hbuffer, hhost⟩

/-- Nor does it on the addressing mode. -/
theorem moded (mode : AddrMode) : s.Initializing sent { u with ds.addressingMode := mode } := by
  obtain ⟨hplace, hinit, hbt, htrace, hans, hbuffer, hhost⟩ := h
  exact ⟨hplace, hinit, hbt, htrace, hans, hbuffer, hhost⟩

/-- Nor on the guard. -/
theorem withGuard (tg : TimeoutGuard) (n : Nat) : s.Initializing sent (u.withGuard tg n) := by
  obtain ⟨hplace, hinit, hbt, htrace, hans, hbuffer, hhost⟩ := h
  exact ⟨hplace, hinit, hbt, htrace, hans, hbuffer, hhost⟩

theorem computed : s.Initializing sent (u.computed params) := by
  obtain ⟨hplace, hinit, hbt, htrace, hans, hbuffer, hhost⟩ := h
  refine ⟨u.computed_cmdSeq_of_select params hplace, by rwa [computed_ds], by rwa [computed_bt],
    by rwa [computed_trace], fun i => ?_, by rwa [computed_buffer], by rwa [computed_host]⟩
  rw [← hans i, answer, answer, computed_env]

theorem reply_eq (index : BitVec 6) : u.reply 0 index = s.reply (10 + sent.length) index :=
  reply_eq_of_answer h.answers index

theorem transacted (k : Command) : s.Initializing
    (sent ++ commandBytes k (s.reply (10 + sent.length) k.index)) (u.transacted k) := by
  have hreply := h.reply_eq k.index
  obtain ⟨-, hinit, hbt, htrace, hans, hbuffer, hhost⟩ := h
  refine ⟨rfl, by rwa [transacted_ds], by rwa [transacted_bt], ?_, fun i => ?_,
    by rwa [transacted_buffer], by rwa [transacted_host]⟩
  · rw [transacted_trace, htrace, hbt, hreply, exchange_eq_of_answer hans, exchange_append,
      List.append_assoc]
  · rw [answer_transacted, hreply, hans, List.length_append, length_commandBytes]
    congr 1
    omega

/-! ### Returns -/

/-- The abort delivers the kind raised; the driver stays uninitialized, the divider slow (R179). -/
theorem endsAs_fail {kind : ErrorKind} {mode : AddrMode} (hq : u.seq = .initFail)
    (hkind : u.w.kind = kind) (hmode : u.ds.addressingMode = mode) (ha : u.tg.armed = false) :
    s.EndsAs ⟨some kind, mode, sent⟩ 1 u := by
  subst hkind hmode
  obtain ⟨hplace, hinit, hbt, htrace, -, hbuffer, hhost⟩ := h
  have hline : lineStep params u = u.deliver (.err u.w.kind) := by
    simp [lineStep, callOf, hq, initStep]
  refine ⟨_, leadsTo_line hq rfl rfl hplace ha hline, rfl, ?_, ?_, hbt, htrace, ha, hbuffer⟩
  · rw [deliver_host, hhost]; rfl
  · rw [deliver_ds]
    exact congrArg (DriverState.mk · u.ds.addressingMode) hinit

/-- Step 7, the completion and the return of `Ok` (R178). -/
theorem endsAs_speed {mode : AddrMode} (hq : u.seq = .initS7Speed) (hmode : u.ds.addressingMode = mode)
    (ha : u.tg.armed = false) : s.EndsAs ⟨none, mode, sent⟩ 3 u := by
  subst hmode
  obtain ⟨hplace, hinit, hbt, htrace, -, hbuffer, hhost⟩ := h
  let u1 : State := { u.setDivider .fast with seq := .initDone }
  let u2 : State := { u1 with ds.initialized := true, seq := .initReturn }
  have h1 : u.LeadsTo 1 u1 :=
    leadsTo_line hq rfl rfl hplace ha (by simp [lineStep, callOf, hq, initStep, u1])
  have h2 : u1.LeadsTo 1 u2 := leadsTo_line rfl rfl rfl hplace ha rfl
  have h3 : u2.LeadsTo 1 (u2.deliver .ok) := leadsTo_line rfl rfl rfl hplace ha rfl
  refine ⟨_, (h1.trans h2).trans h3, rfl, ?_, rfl, ?_, htrace, ha, hbuffer⟩
  · rw [deliver_host, ← hhost]; rfl
  · show { u.bt with divider := .fast } = _
    rw [hbt]; rfl

/-! ### A transaction and its check, the guard not armed -/

section Check

variable {k : Command} {r : Reply} {p : Pos} (hreply : s.reply (10 + sent.length) k.index = r)
include hreply

/-- What the check reads is the answer that the second account expects. -/
theorem transacted_kind_eq : (u.transacted k).w.kind = r.kind := by
  rw [transacted_kind, h.reply_eq, hreply]

variable (hq : u.seq = p) (hk : u.callOf params = some k) (hr : p.afterCall.resting = false)
  (ha : u.tg.armed = false)
include hq hk hr ha

/-- From a call of `Command` on, `Initialize` ends as from the line that the check of its answer computes. -/
theorem endsAs_of_check (hv : (u.transacted k).computed params = v) (hr' : v.seq.resting = false)
    (hend : s.Initializing (sent ++ commandBytes k r) v → v.tg.armed = false → s.EndsAs e n v) :
    s.EndsAs e (26 + n) u := by
  subst hq hv hreply
  have hrun := leadsTo_transaction_disarmed hk h.place ha
  have hcheck := leadsTo_computed (s := u.transacted k) rfl hr hr'
  refine (hrun.trans hcheck).endsAs (hend (h.transacted k).computed ?_)
  rw [computed_tg, transacted_tg, ha]

/-- A check that raises a kind ends `Initialize` there (R179). -/
theorem endsAs_of_raise {kind : ErrorKind} {mode : AddrMode} (hmode : u.ds.addressingMode = mode)
    (hab : p.afterCall.abort = .initFail)
    (hv : (u.transacted k).computed params = (u.transacted k).raise kind) :
    s.EndsAs ⟨some kind, mode, sent ++ commandBytes k r⟩ 27 u := by
  have hseq : ((u.transacted k).raise kind).seq = .initFail := by
    rw [raise_seq, transacted_seq, hq, hab]
  refine h.endsAs_of_check (n := 1) hreply hq hk hr ha hv (by rw [hseq]; rfl) fun h' ha' => ?_
  exact h'.endsAs_fail hseq rfl (by rw [raise_ds, transacted_ds, hmode]) ha'

end Check

/-- Step 6 (R177). -/
theorem endsAs_blocklen (hq : u.seq = .initS6Blocklen) (hmode : u.ds.addressingMode = .byte)
    (ha : u.tg.armed = false) : s.EndsAs (s.expectBlocklen (10 + sent.length) sent) 29 u := by
  have hcall : u.callOf params = some (setBlocklenCommand params) := by simp [callOf, hq]
  have hcheck := computed_initS6Check (u := u.transacted (setBlocklenCommand params)) params rfl
    (by rw [transacted_seq, hq]; rfl)
  rw [h.transacted_kind_eq (r := s.reply (10 + sent.length) params.idxSetBlocklen) rfl] at hcheck
  split at hcheck
  · next hok =>
    rw [expectBlocklen_of_ok hok]
    refine h.endsAs_of_check (n := 3) rfl hq hcall rfl ha hcheck rfl fun h' ha' => ?_
    exact h'.endsAs_speed rfl (by rw [transacted_ds, hmode]) ha'
  · next hne =>
    rw [expectBlocklen_of_ne hne]
    exact (h.endsAs_of_raise rfl hq hcall rfl ha hmode rfl hcheck).mono (by decide)

/-- `Init.s5_ocr` writes the addressing mode that the payload selects, and goes on to that mode's line. -/
theorem leadsTo_modeLine (hq : u.seq = .initS5Mode) (ha : u.tg.armed = false) : ∃ v, u.LeadsTo 1 v ∧
    s.Initializing sent v ∧ v.ds.addressingMode = ocrMode params u.w.payload ∧
    v.seq = (ocrMode params u.w.payload).line ∧ v.tg.armed = false := by
  let v : State := { u with ds.addressingMode := ocrMode params u.w.payload, seq := .initModeCheck }
  have hline : u.LeadsTo 1 v :=
    leadsTo_line hq rfl rfl h.place ha (by simp [lineStep, callOf, hq, initStep, v])
  have hcheck : v.computed params = { v with seq := (ocrMode params u.w.payload).line } :=
    (computed_initModeCheck (u := v) params h.place rfl).trans (modeDecision_eq v)
  have hdecide := leadsTo_computed (s := v) h.place rfl
    (by rw [hcheck]; exact AddrMode.line_resting _)
  rw [hcheck] at hdecide
  exact ⟨_, hline.trans hdecide, (h.moded _).moved _ _, rfl, rfl, ha⟩

/-- Step 5, and step 6 under byte addressing (R176, R177). -/
theorem endsAs_ocr {pos : Nat} {sent' more : List Byte} {mode : AddrMode} (hsent : sent = sent' ++ more)
    (hneg : s.negotiate true (s.nextDelay + 1) 0 pos = (none, 10 + sent.length, more))
    (hq : u.seq = .initS5Ocr) (hmode : u.ds.addressingMode = mode) (ha : u.tg.armed = false) :
    s.EndsAs (s.expectNegotiation .v2 mode pos sent') 56 u := by
  have hcall : u.callOf params = some (readOcrCommand params) := by simp [callOf, hq]
  have hcheck := computed_initS5Check (u := u.transacted (readOcrCommand params)) params rfl
    (by rw [transacted_seq, hq]; rfl)
  rw [h.transacted_kind_eq (r := s.reply (10 + sent.length) params.idxReadOcr) rfl,
    ← payload_reply_isSome rfl] at hcheck
  cases hpayload : (s.reply (10 + sent.length) params.idxReadOcr).payload with
  | none =>
    rw [hpayload, if_neg (by simp)] at hcheck
    rw [expectNegotiation_v2_none hneg hpayload, ← hsent]
    exact (h.endsAs_of_raise rfl hq hcall rfl ha hmode rfl hcheck).mono (by decide)
  | some ocr =>
    rw [hpayload, if_pos (by simp)] at hcheck
    refine h.endsAs_of_check (n := 30) rfl hq hcall rfl ha hcheck rfl fun h' ha' => ?_
    have hocr : (u.transacted (readOcrCommand params)).w.payload = ocr := by
      rw [transacted_payload, h.reply_eq]
      exact congrArg (Option.getD · 0#32) hpayload
    obtain ⟨v, hline, hv, hmodev, hseq, hav⟩ := h'.leadsTo_modeLine rfl ha'
    dsimp only at hmodev hseq
    rw [hocr] at hmodev hseq
    refine hline.endsAs (n := 29) ?_
    cases hmode' : ocrMode params ocr with
    | block =>
      rw [hmode'] at hmodev hseq
      rw [expectNegotiation_v2_block hneg hpayload hmode', ← hsent]
      exact (hv.endsAs_speed hseq hmodev hav).mono (by decide)
    | byte =>
      rw [hmode'] at hmodev hseq
      have hend := hv.endsAs_blocklen hseq hmodev hav
      rw [position_append] at hend
      rwa [expectNegotiation_v2_byte hneg hpayload hmode', ← hsent]

end Initializing

end State

end Sys2Proof.Machine
end

section
/-! PROOFS. Step 4 of `Initialize` under the guard (R175): the rounds of its loop, whenever the guard
expires. -/

namespace Sys2Proof.Machine

namespace State

variable {s u v : State} {sent : List Byte} {n : Nat}

/-! ## The second account of the loop -/

section Expected

variable {hcs : Bool} {rounds steps pos : Nat}

theorem negotiate_expired (h : s.nextDelay ≤ steps) :
    s.negotiate hcs rounds steps pos = (some .timeout, pos, []) := by
  cases rounds <;> simp [negotiate, h]

variable (hd : steps < s.nextDelay)
include hd

/-- CMD55 not answered with a benign status ends the loop (R175, D14). -/
theorem negotiate_refused (hb : (s.reply pos params.idxAppPrefix).kind.benign = false) :
    s.negotiate hcs (rounds + 1) steps pos = (some (s.reply pos params.idxAppPrefix).kind,
      pos + (s.reply pos params.idxAppPrefix).transfers,
      commandBytes (appPrefixCommand params) (s.reply pos params.idxAppPrefix)) := by
  simp [negotiate, Nat.not_le.2 hd, hb]

/-- After a benign status of CMD55 the initialization command's kind decides (R175). -/
theorem negotiate_answered (hb : (s.reply pos params.idxAppPrefix).kind.benign = true) :
    s.negotiate hcs (rounds + 1) steps pos =
      (let p := s.reply pos params.idxAppPrefix
       let q := s.reply (pos + p.transfers) params.idxAppInit
       let sent := commandBytes (appPrefixCommand params) p ++ commandBytes (appInitCommand params hcs) q
       let pos' := pos + p.transfers + q.transfers
       let later := s.negotiate hcs rounds (steps + 1 + p.steps + q.steps) pos'
       if q.kind = .ok then (none, pos', sent)
       else if q.kind = .idle then (later.1, later.2.1, sent ++ later.2.2)
       else (some q.kind, pos', sent)) := by
  rw [negotiate, if_neg (Nat.not_le.2 hd)]
  dsimp only
  rw [if_pos hb]
  cases (s.reply (pos + (s.reply pos params.idxAppPrefix).transfers) params.idxAppInit).kind <;> rfl

end Expected

/-! ## Where the loop stands -/

section Fields

variable (s : State) (tg : TimeoutGuard) (n : Nat) (k : Command)

@[simp] theorem withGuard_w : (s.withGuard tg n).w = s.w := rfl
@[simp] theorem withGuard_ds : (s.withGuard tg n).ds = s.ds := rfl
@[simp] theorem transacted_cardVersion : (s.transacted k).w.cardVersion = s.w.cardVersion := rfl

end Fields

/-- `u` stands between two lines of step 4, `steps` sequencer steps after its `Arm`: the guard is as those
steps leave it (R156), the card's version and the addressing mode are those step 3 found. -/
structure Negotiating (s : State) (version : CardVersion) (mode : AddrMode) (steps : Nat)
    (sent : List Byte) (u : State) : Prop extends s.Initializing sent u where
  guard : (u.tg, u.env.countdown) = guardAfter steps ⟨false, true⟩ s.nextDelay
  version : u.w.cardVersion = version
  mode : u.ds.addressingMode = mode

/-- One step of the sequencer inside the wait, the handler perhaps before it. -/
theorem leadsTo_sequencerStep (hs : u.seq.resting = false) :
    u.LeadsTo (guardSteps 1 u.tg u.env.countdown)
      (sequencerStep params (u.withGuard (guardAfter 1 u.tg u.env.countdown).1
        (guardAfter 1 u.tg u.env.countdown).2)) := by
  rw [← runSteps_one hs]
  exact leadsTo_runSteps _ u

theorem sequencerStep_test (hq : u.seq = .initS4Test) (hc : u.cmdSeq = .select) :
    sequencerStep params u = u.negotiationTest := by
  rw [sequencerStep_line params (by rw [hq]; rfl) (by rw [hq]; rfl) hc]
  simp [lineStep, callOf, hq, initStep]

theorem guardSteps_le (n : Nat) (tg : TimeoutGuard) (countdown : Nat) :
    guardSteps n tg countdown ≤ n + 1 := by
  unfold guardSteps; split <;> omega

/-- The handler has not stepped among the steps that the delay still covers. -/
theorem guardSteps_guardAfter {m n d : Nat} (h : m + n ≤ d) :
    guardSteps n (guardAfter m ⟨false, true⟩ d).1 (guardAfter m ⟨false, true⟩ d).2 = n := by
  have hm : m ≤ d := by omega
  rw [guardAfter, if_pos rfl, if_pos hm, guardSteps, if_neg fun h' => absurd h'.2 (by dsimp only; omega)]

/-- The flag is seen up exactly when the delay is over (R156, R157). -/
theorem guardAfter_expired (n d : Nat) :
    (guardAfter (n + 1) ⟨false, true⟩ d).1.expired = decide (d ≤ n) := by
  by_cases h : n + 1 ≤ d
  · have hn : ¬ d ≤ n := by omega
    simp [guardAfter, h, hn]
  · have hn : d ≤ n := by omega
    simp [guardAfter, h, hn]

namespace Negotiating

variable {version : CardVersion} {mode : AddrMode} {steps : Nat}
  (h : s.Negotiating version mode steps sent u)
include h

/-- The guard after `n` steps more. -/
theorem guardAfter_eq (n : Nat) :
    guardAfter n u.tg u.env.countdown = guardAfter (steps + n) ⟨false, true⟩ s.nextDelay := by
  rw [guardAfter_add, ← h.guard]

/-- While the delay lasts the handler takes no step. -/
theorem guardSteps_eq (hn : steps + n ≤ s.nextDelay) : guardSteps n u.tg u.env.countdown = n := by
  have hg := guardSteps_guardAfter hn
  rwa [← h.guard] at hg

/-- The loop's test, the flag seen up or not: on to CMD55, or to the abort with `Timeout` (R175). -/
theorem test (hq : u.seq = .initS4Test) : ∃ v, u.LeadsTo (guardSteps 1 u.tg u.env.countdown) v ∧
    s.Negotiating version mode (steps + 1) sent v ∧
    (s.nextDelay ≤ steps → v.seq = .initAbort ∧ v.w.kind = .timeout) ∧
    (steps < s.nextDelay → v.seq = .initS4Prefix) := by
  have hrun := leadsTo_sequencerStep (u := u) (by rw [hq]; rfl)
  have hexpired := guardAfter_expired steps s.nextDelay
  rw [h.guardAfter_eq] at hrun
  obtain ⟨hstands, -, hversion, hmode⟩ := h
  generalize hg : guardAfter (steps + 1) ⟨false, true⟩ s.nextDelay = g at hrun hexpired
  have hstep : sequencerStep params (u.withGuard g.1 g.2) =
      if s.nextDelay ≤ steps then (u.withGuard g.1 g.2).raise .timeout
      else { u.withGuard g.1 g.2 with seq := .initS4Prefix } := by
    rw [sequencerStep_test (u := u.withGuard g.1 g.2) hq hstands.place, negotiationTest_eq]
    simp only [withGuard_tg, hexpired, decide_eq_true_eq]
  rw [hstep] at hrun
  refine ⟨_, hrun, ?_, fun hd => ?_, fun hd => ?_⟩
  · split
    · exact ⟨(hstands.withGuard _ _).moved _ _, hg.symm, hversion, hmode⟩
    · exact ⟨(hstands.withGuard _ _).moved _ _, hg.symm, hversion, hmode⟩
  · rw [if_pos hd]
    exact ⟨by rw [raise_seq, withGuard_seq, hq]; rfl, rfl⟩
  · rw [if_neg (Nat.not_le.2 hd)]

/-- A transaction inside the wait. -/
theorem call {k : Command} {r : Reply} (hreply : s.reply (10 + sent.length) k.index = r)
    (hk : u.callOf params = some k) : ∃ v, u.LeadsTo (guardSteps r.steps u.tg u.env.countdown) v ∧
    s.Negotiating version mode (steps + r.steps) (sent ++ commandBytes k r) v ∧
    v.seq = u.seq.afterCall ∧ v.w.kind = r.kind := by
  have hrun := leadsTo_transaction hk h.place
  rw [h.guardAfter_eq, h.reply_eq, hreply] at hrun
  have hstands := h.transacted k
  rw [hreply] at hstands
  generalize hg : guardAfter (steps + r.steps) ⟨false, true⟩ s.nextDelay = g at hrun
  refine ⟨_, hrun, ⟨hstands.withGuard _ _, hg.symm, ?_, ?_⟩, ?_, ?_⟩
  · rw [withGuard_w, transacted_cardVersion, h.version]
  · rw [withGuard_ds, transacted_ds, h.mode]
  · rw [withGuard_seq, transacted_seq]
  · rw [withGuard_w, h.transacted_kind_eq hreply]

/-- A pure line inside the wait. -/
theorem leadsTo_decided (hv : u.computed params = v) (hr : u.seq.resting = false) (hr' : v.seq.resting = false) :
    u.LeadsTo 0 v ∧ s.Negotiating version mode steps sent v := by
  subst hv
  refine ⟨leadsTo_computed h.place hr hr', h.computed, ?_, ?_, ?_⟩
  · rw [computed_tg, computed_env, h.guard]
  · rw [computed_cardVersion, h.version]
  · rw [computed_ds, h.mode]

/-- CMD55 refused: the loop is left for the abort with its kind (R175, D14). -/
theorem leadsTo_refused {p : Reply} (hp : s.reply (10 + sent.length) params.idxAppPrefix = p)
    (hq : u.seq = .initS4Prefix) (hb : p.kind.benign = false) : ∃ n ≤ 27, ∃ v, u.LeadsTo n v ∧
    s.Negotiating version mode (steps + p.steps) (sent ++ commandBytes (appPrefixCommand params) p) v ∧
    v.seq = .initAbort ∧ v.w.kind = p.kind := by
  obtain ⟨x, hcall, hx, hseq, hkind⟩ := h.call (k := appPrefixCommand params) hp (by simp [callOf, hq])
  rw [hq] at hseq
  have hcheck := computed_initS4PrefixCheck params hx.place hseq
  rw [hkind, if_neg (by simp [hb])] at hcheck
  have hab : (x.raise p.kind).seq = .initAbort := by rw [raise_seq, hseq]; rfl
  obtain ⟨hdecide, hv⟩ := hx.leadsTo_decided hcheck (by rw [hseq]; rfl) (by rw [hab]; rfl)
  have hle := steps_reply_le s (10 + sent.length) params.idxAppPrefix
  rw [hp] at hle
  have hle' := guardSteps_le p.steps u.tg u.env.countdown
  exact ⟨_, by omega, _, hcall.trans hdecide, hv, hab, rfl⟩

/-- Both commands of a round answered: on to the check of the second's kind. -/
theorem leadsTo_answered {p q : Reply} (hp : s.reply (10 + sent.length) params.idxAppPrefix = p)
    (hq' : s.reply (10 + sent.length + p.transfers) params.idxAppInit = q)
    (hq : u.seq = .initS4Prefix) (hb : p.kind.benign = true) :
    ∃ n, n ≤ p.steps + q.steps + 2 ∧
    (steps + p.steps + q.steps ≤ s.nextDelay → n = p.steps + q.steps) ∧
    ∃ v, u.LeadsTo n v ∧ s.Negotiating version mode (steps + p.steps + q.steps)
      (sent ++ (commandBytes (appPrefixCommand params) p ++
        commandBytes (appInitCommand params (version = .v2)) q)) v ∧
    v.seq = .initS4InitCheck ∧ v.w.kind = q.kind := by
  obtain ⟨x, hcall, hx, hseq, hkind⟩ := h.call (k := appPrefixCommand params) hp (by simp [callOf, hq])
  rw [hq] at hseq
  have hcheck := computed_initS4PrefixCheck params hx.place hseq
  rw [hkind, if_pos hb] at hcheck
  obtain ⟨hdecide, hy⟩ := hx.leadsTo_decided hcheck (by rw [hseq]; rfl) rfl
  obtain ⟨v, hcall', hv, hseq', hkind'⟩ := hy.call (k := appInitCommand params (version = .v2)) (r := q)
    (by rw [position_append]; exact hq') (by rw [← hx.version]; rfl)
  rw [List.append_assoc] at hv
  have hle := guardSteps_le p.steps u.tg u.env.countdown
  have hle' := guardSteps_le q.steps x.tg x.env.countdown
  refine ⟨_, ?_, fun hd => ?_, v, (hcall.trans hdecide).trans hcall', hv, hseq', hkind'⟩
  · dsimp only; omega
  · dsimp only
    rw [h.guardSteps_eq (by omega), hx.guardSteps_eq hd, Nat.add_zero]

end Negotiating

/-! ## How the loop ends -/

theorem negotiationDecision_eq (s : State) : s.negotiationDecision =
    if s.w.kind = .ok then { s with seq := .initS4Disarm }
    else if s.w.kind = .idle then { s with seq := .initS4Test } else s.raise s.w.kind := by
  cases h : s.w.kind <;> simp [negotiationDecision, h]

/-- `v` stands where the loop is left as `o` says, entered with `sent` sent: at its `Disarm`, or at the
abort with the kind raised (R175, R252). -/
structure Negotiated (s : State) (version : CardVersion) (mode : AddrMode) (sent : List Byte)
    (o : Option ErrorKind × Nat × List Byte) (v : State) : Prop
    extends s.Initializing (sent ++ o.2.2) v where
  version : v.w.cardVersion = version
  mode : v.ds.addressingMode = mode
  position : o.2.1 = 10 + (sent ++ o.2.2).length
  success : o.1 = none → v.seq = .initS4Disarm
  failure : ∀ k, o.1 = some k → v.seq = .initAbort ∧ v.w.kind = k

namespace Negotiating

variable {version : CardVersion} {mode : AddrMode} {steps : Nat}

/-- The loop left with success. -/
theorem negotiated_success {more : List Byte} {pos : Nat}
    (h : s.Negotiating version mode steps (sent ++ more) u) (hpos : pos = 10 + (sent ++ more).length)
    (hq : u.seq = .initS4Disarm) : s.Negotiated version mode sent (none, pos, more) u :=
  ⟨h.toInitializing, h.version, h.mode, hpos, fun _ => hq, nofun⟩

/-- The loop left with a failure. -/
theorem negotiated_failure {more : List Byte} {pos : Nat}
    (h : s.Negotiating version mode steps (sent ++ more) u) (hpos : pos = 10 + (sent ++ more).length)
    (hq : u.seq = .initAbort) : s.Negotiated version mode sent (some u.w.kind, pos, more) u :=
  ⟨h.toInitializing, h.version, h.mode, hpos, nofun, fun _ hk => ⟨hq, Option.some.inj hk⟩⟩

/-- The check of the second command's kind: out of the loop, another round, or the abort (R175). -/
theorem leadsTo_decision (h : s.Negotiating version mode steps sent u) (hq : u.seq = .initS4InitCheck) :
    ∃ v, u.LeadsTo 0 v ∧ s.Negotiating version mode steps sent v ∧ v.w.kind = u.w.kind ∧
    v.seq = if u.w.kind = .ok then .initS4Disarm else if u.w.kind = .idle then .initS4Test
      else .initAbort := by
  have hcheck := (computed_initS4InitCheck params h.place hq).trans (negotiationDecision_eq u)
  have hseq : (u.computed params).seq = if u.w.kind = .ok then .initS4Disarm
      else if u.w.kind = .idle then .initS4Test else .initAbort := by
    rw [hcheck]
    split
    · rfl
    · split
      · rfl
      · rw [raise_seq, hq]; rfl
  obtain ⟨hrun, hv⟩ := h.leadsTo_decided rfl (by rw [hq]; rfl) (by rw [hseq]; split <;> (try split) <;> rfl)
  refine ⟨_, hrun, hv, ?_, hseq⟩
  rw [hcheck]
  repeat' split
  all_goals rfl

end Negotiating

/-- From `u` on, `steps` sequencer steps after the `Arm` and with `rounds` tests to come, the loop is left
as the second account says; within 2 steps once the delay is over, and before that within what the delay
leaves and one round more. -/
def LeavesLoop (s : State) (version : CardVersion) (mode : AddrMode) (rounds steps : Nat)
    (sent : List Byte) (u : State) : Prop :=
  ∃ n v, u.LeadsTo n v ∧ (s.nextDelay ≤ steps → n ≤ 2) ∧
    (steps < s.nextDelay → n + steps ≤ s.nextDelay + 60) ∧
    s.Negotiated version mode sent (s.negotiate (version = .v2) rounds steps (10 + sent.length)) v

namespace Negotiating

variable {version : CardVersion} {mode : AddrMode} {steps : Nat}

/-- The delay is over at the loop's test: `Timeout` (R175). -/
theorem leavesLoop_expired (h : s.Negotiating version mode steps sent u) (hq : u.seq = .initS4Test)
    (hd : s.nextDelay ≤ steps) (rounds : Nat) : s.LeavesLoop version mode rounds steps sent u := by
  obtain ⟨v, hrun, hv, hexpired, -⟩ := h.test hq
  obtain ⟨hab, hkind⟩ := hexpired hd
  refine ⟨_, v, hrun, fun _ => guardSteps_le _ _ _, fun hlt => absurd hd (Nat.not_le.2 hlt), ?_⟩
  rw [negotiate_expired hd, ← hkind]
  rw [← List.append_nil sent] at hv
  exact hv.negotiated_failure (by rw [List.append_nil]) hab

/-- A round whose CMD55 is refused. -/
theorem leavesLoop_refused {rounds : Nat} (h : s.Negotiating version mode (steps + 1) sent u)
    (hq : u.seq = .initS4Prefix) (hd : steps < s.nextDelay)
    (hb : (s.reply (10 + sent.length) params.idxAppPrefix).kind.benign = false) : ∃ n ≤ 27, ∃ v,
    u.LeadsTo n v ∧ s.Negotiated version mode sent
      (s.negotiate (version = .v2) (rounds + 1) steps (10 + sent.length)) v := by
  obtain ⟨n, hn, v, hrun, hv, hab, hkind⟩ := h.leadsTo_refused rfl hq hb
  refine ⟨n, hn, v, hrun, ?_⟩
  rw [negotiate_refused hd hb, ← hkind]
  exact hv.negotiated_failure (position_append _ _ _ _).symm hab

/-- A round whose commands are both answered, and the rounds after it. -/
theorem leavesLoop_answered {rounds : Nat} (h : s.Negotiating version mode (steps + 1) sent u)
    (hq : u.seq = .initS4Prefix) (hd : steps < s.nextDelay)
    (hb : (s.reply (10 + sent.length) params.idxAppPrefix).kind.benign = true)
    (later : ∀ {steps' sent' u'}, steps < steps' → s.Negotiating version mode steps' sent' u' →
      u'.seq = .initS4Test → s.LeavesLoop version mode rounds steps' sent' u') : ∃ n,
    n + 1 + steps ≤ s.nextDelay + 60 ∧ ∃ v, u.LeadsTo n v ∧ s.Negotiated version mode sent
      (s.negotiate (version = .v2) (rounds + 1) steps (10 + sent.length)) v := by
  rw [negotiate_answered hd hb]
  dsimp only
  generalize hp : s.reply (10 + sent.length) params.idxAppPrefix = p at hb
  generalize hq' : s.reply (10 + sent.length + p.transfers) params.idxAppInit = q
  obtain ⟨n, hle, hexact, x, hrun, hx, hseq, hkind⟩ := h.leadsTo_answered hp hq' hq hb
  obtain ⟨v, hrun', hv, hkind', hseq'⟩ := hx.leadsTo_decision hseq
  rw [hkind] at hkind' hseq'
  have hpsteps := steps_reply_le s (10 + sent.length) params.idxAppPrefix
  have hqsteps := steps_reply_le s (10 + sent.length + p.transfers) params.idxAppInit
  rw [hp] at hpsteps
  rw [hq'] at hqsteps
  have hpos : 10 + sent.length + p.transfers + q.transfers =
      10 + (sent ++ (commandBytes (appPrefixCommand params) p ++
        commandBytes (appInitCommand params (version = .v2)) q)).length := by
    rw [← List.append_assoc, position_append, position_append]
  by_cases hok : q.kind = .ok
  · rw [if_pos hok] at hseq' ⊢
    exact ⟨n + 0, by omega, v, hrun.trans hrun', hv.negotiated_success hpos hseq'⟩
  · rw [if_neg hok] at hseq' ⊢
    by_cases hidle : q.kind = .idle
    · rw [if_pos hidle] at hseq' ⊢
      obtain ⟨m, y, hrest, hfew, hmany, hy⟩ := later (by omega) hv hseq'
      refine ⟨n + 0 + m, by omega, y, (hrun.trans hrun').trans hrest, ?_⟩
      rw [← hpos] at hy
      obtain ⟨hstands, hversion, hmode, hposition, hsuccess, hfailure⟩ := hy
      rw [List.append_assoc] at hstands hposition
      exact ⟨hstands, hversion, hmode, hposition, hsuccess, hfailure⟩
    · rw [if_neg hidle] at hseq' ⊢
      rw [← hkind']
      exact ⟨n + 0, by omega, v, hrun.trans hrun', hv.negotiated_failure hpos hseq'⟩

/-- The loop ends as the second account says (R175, R157). -/
theorem leavesLoop (rounds : Nat) (h : s.Negotiating version mode steps sent u)
    (hq : u.seq = .initS4Test) (hrounds : s.nextDelay < rounds + steps) :
    s.LeavesLoop version mode rounds steps sent u := by
  induction rounds generalizing steps sent u with
  | zero => exact h.leavesLoop_expired hq (by omega) 0
  | succ rounds ih =>
    by_cases hd : s.nextDelay ≤ steps
    · exact h.leavesLoop_expired hq hd _
    · obtain ⟨x, hrun, hx, -, hpasses⟩ := h.test hq
      rw [h.guardSteps_eq (by omega)] at hrun
      have hx' := hpasses (Nat.not_le.1 hd)
      cases hb : (s.reply (10 + sent.length) params.idxAppPrefix).kind.benign with
      | false =>
        obtain ⟨n, hn, v, hrun', hv⟩ := hx.leavesLoop_refused (rounds := rounds) hx' (Nat.not_le.1 hd) hb
        exact ⟨1 + n, v, hrun.trans hrun', fun h => absurd h hd, by omega, hv⟩
      | true =>
        obtain ⟨n, hn, v, hrun', hv⟩ := hx.leavesLoop_answered (rounds := rounds) hx' (Nat.not_le.1 hd) hb
          fun hlt h' hq' => ih h' hq' (by omega)
        exact ⟨1 + n, v, hrun.trans hrun', fun h => absurd h hd, by omega, hv⟩

end Negotiating

end State

end Sys2Proof.Machine
end

section
/-! PROOFS. `Initialize` out of the guarded wait, step 4 as a whole, and the second account of steps 2
and 3. -/

namespace Sys2Proof.Machine

namespace State

variable {s u v : State} {sent : List Byte} {n : Nat}

/-! ## The end of the guarded wait -/

/-- A `Disarm`, the handler perhaps stepping before it: the guard is not armed after it (R153). -/
theorem leadsTo_disarm {p next : Pos} (hq : u.seq = p) (hr : p.resting = false) (hp : p.isPure = false)
    (hc : u.cmdSeq = .select)
    (hline : ∀ t : State, t.seq = p → lineStep params t = { t.disarm with seq := next }) :
    ∃ tg countdown, u.LeadsTo 2 (State.withGuard { u with seq := next } tg countdown) ∧
      tg.armed = false := by
  subst hq
  have hrun := (leadsTo_sequencerStep (u := u) hr).mono (guardSteps_le _ _ _)
  generalize guardAfter 1 u.tg u.env.countdown = g at hrun
  rw [sequencerStep_line params (s := u.withGuard g.1 g.2) hr hp hc,
    hline (u.withGuard g.1 g.2) rfl] at hrun
  exact ⟨⟨g.1.expired, false⟩, g.2, hrun, rfl⟩

namespace Initializing

variable (h : s.Initializing sent u)
include h

/-- The abort out of the wait (R252). -/
theorem endsAs_abort {kind : ErrorKind} {mode : AddrMode} (hq : u.seq = .initAbort)
    (hkind : u.w.kind = kind) (hmode : u.ds.addressingMode = mode) :
    s.EndsAs ⟨some kind, mode, sent⟩ 3 u := by
  obtain ⟨tg, countdown, hrun, ha⟩ := leadsTo_disarm (next := .initFail) hq rfl rfl h.place
    fun t ht => by simp [lineStep, callOf, ht, initStep]
  have hend := ((h.moved .initFail u.w).withGuard tg countdown).endsAs_fail rfl hkind hmode ha
  exact hrun.endsAs hend

/-- Out of the loop with success: the line that the card's version goes on to (R181). -/
theorem leadsTo_versionLine {version : CardVersion} (hq : u.seq = .initS4Disarm)
    (hversion : u.w.cardVersion = version) (hmode : version = .v1 → u.ds.addressingMode = .byte) :
    ∃ v, u.LeadsTo 2 v ∧ s.Initializing sent v ∧ v.tg.armed = false ∧
    v.ds.addressingMode = u.ds.addressingMode ∧
    v.seq = if version = .v2 then .initS5Ocr else .initS6Blocklen := by
  obtain ⟨tg, countdown, hrun, ha⟩ := leadsTo_disarm (next := .initVersionCheck) hq rfl rfl h.place
    fun t ht => by simp [lineStep, callOf, ht, initStep]
  have hx := (h.moved .initVersionCheck u.w).withGuard tg countdown
  generalize hxe : State.withGuard { u with seq := .initVersionCheck } tg countdown = x at hrun hx
  have hxq : x.seq = .initVersionCheck := by rw [← hxe]; rfl
  have hxversion : x.w.cardVersion = version := by rw [← hxe]; exact hversion
  have hxds : x.ds = u.ds := by rw [← hxe]; rfl
  have hxa : x.tg.armed = false := by rw [← hxe]; exact ha
  have hcheck : x.computed params =
      { x with seq := if version = .v2 then .initS5Ocr else .initS6Blocklen } := by
    rw [computed_initVersionCheck params hx.place hxq, versionDecision, hxversion]
    cases version with
    | v1 => simp [modeDecision_eq, hxds, hmode rfl, AddrMode.line]
    | v2 => rfl
  have hdecide := leadsTo_computed (s := x) hx.place (by rw [hxq]; rfl)
    (by rw [hcheck]; cases version <;> rfl)
  rw [hcheck] at hdecide
  exact ⟨_, hrun.trans hdecide, hx.moved _ _, hxa, by rw [← hxds], rfl⟩

end Initializing

/-- From where the loop is left `Initialize` ends as the second account says (R175 to R177). -/
theorem Negotiated.endsAs {version : CardVersion} {mode : AddrMode}
    (h : s.Negotiated version mode sent
      (s.negotiate (version = .v2) (s.nextDelay + 1) 0 (10 + sent.length)) u)
    (hbyte : version = .v1 → mode = .byte) :
    s.EndsAs (s.expectNegotiation version mode (10 + sent.length) sent) 58 u := by
  generalize ho : s.negotiate (version = .v2) (s.nextDelay + 1) 0 (10 + sent.length) = o at h
  obtain ⟨failure, pos, more⟩ := o
  obtain ⟨hstands, hversion, hmode, hpos, hsuccess, hfailure⟩ := h
  dsimp only at hstands hpos hsuccess hfailure
  cases failure with
  | some k =>
    obtain ⟨hab, hkind⟩ := hfailure k rfl
    rw [expectNegotiation_of_failure ho]
    exact (hstands.endsAs_abort hab hkind hmode).mono (by decide)
  | none =>
    obtain ⟨v, hrun, hv, ha, hmode', hseq⟩ := hstands.leadsTo_versionLine (hsuccess rfl) hversion
      fun e => hmode.trans (hbyte e)
    rw [hmode] at hmode'
    refine hrun.endsAs (n := 56) ?_
    rw [hpos] at ho
    cases version with
    | v1 =>
      rw [expectNegotiation_v1 ho]
      exact (hv.endsAs_blocklen hseq (hmode'.trans (hbyte rfl)) ha).mono (by decide)
    | v2 => exact hv.endsAs_ocr rfl ho hseq hmode' ha

/-! ## Steps 2 to 4 -/

theorem transacted_nextDelay (k : Command) (s : State) : (s.transacted k).nextDelay = s.nextDelay := by
  have hin : (s.transacted k).env.expiryIn = s.env.expiryIn := sendAll_expiryIn _ _
  have harms : (s.transacted k).env.arms = s.env.arms := sendAll_arms _ _
  simp only [nextDelay, hin, harms]

/-- The echo is compared in all its bits (R174, D5). -/
theorem echoMatches_params (v : Word) : echoMatches params v = decide (v = params.ifCondPattern) := by
  have hmask : params.echoMask = BitVec.allOnes 32 := rfl
  rw [echoMatches, hmask, BitVec.and_allOnes, BitVec.and_allOnes, beq_eq_decide]

section Expected

/-- What the second account has sent when step 2's answer is checked (R172, R173). -/
def sentReset (s : State) : List Byte :=
  List.replicate 2 params.fill ++ commandBytes (resetCommand params) (s.reply 12 params.idxReset)

theorem length_sentReset (s : State) :
    10 + s.sentReset.length = 12 + (s.reply 12 params.idxReset).transfers := by
  rw [sentReset, position_append, List.length_replicate]

/-- What it has sent when step 3's answer is checked (R174). -/
def sentProbe (s : State) : List Byte :=
  s.sentReset ++ commandBytes (ifCondCommand params)
    (s.reply (12 + (s.reply 12 params.idxReset).transfers) params.idxIfCond)

theorem length_sentProbe (s : State) : 10 + s.sentProbe.length =
    12 + (s.reply 12 params.idxReset).transfers +
      (s.reply (12 + (s.reply 12 params.idxReset).transfers) params.idxIfCond).transfers := by
  rw [sentProbe, position_append, length_sentReset]

/-- Step 2 is the end unless the card answers `Idle` (R173). -/
theorem expectInitialize_of_ne (h : (s.reply 12 params.idxReset).kind ≠ .idle) :
    s.expectInitialize =
      ⟨some (s.reply 12 params.idxReset).kind.reported, s.ds.addressingMode, s.sentReset⟩ := by
  simp [expectInitialize, h, sentReset]

variable (h : (s.reply 12 params.idxReset).kind = .idle) {r : Reply}
  (hr : s.reply (12 + (s.reply 12 params.idxReset).transfers) params.idxIfCond = r)
include h hr

/-- Step 3 found a version-2 card (R174). -/
theorem expectInitialize_v2 (hk : r.kind = .idle) (hp : r.payload = some params.ifCondPattern) :
    s.expectInitialize =
      s.expectNegotiation .v2 s.ds.addressingMode (10 + s.sentProbe.length) s.sentProbe := by
  rw [length_sentProbe]
  simp [expectInitialize, h, hr, hk, hp, sentProbe, sentReset]

/-- Step 3 got another pattern back (R174). -/
theorem expectInitialize_mismatch (hk : r.kind = .idle) (hp : r.payload ≠ some params.ifCondPattern) :
    s.expectInitialize = ⟨some .invalidVoltageRange, s.ds.addressingMode, s.sentProbe⟩ := by
  simp [expectInitialize, h, hr, hk, hp, sentProbe, sentReset]

/-- Step 3 found a version-1 card (R174). -/
theorem expectInitialize_v1 (hk : r.kind = .illegalCommand ∨ r.kind = .noResponse) :
    s.expectInitialize = s.expectNegotiation .v1 .byte (10 + s.sentProbe.length) s.sentProbe := by
  rw [length_sentProbe]
  rcases hk with hk | hk <;> simp [expectInitialize, h, hr, hk, sentProbe, sentReset]

/-- Step 3 got another kind (R174). -/
theorem expectInitialize_refused (hk : r.kind ≠ .idle) (hk1 : r.kind ≠ .illegalCommand)
    (hk2 : r.kind ≠ .noResponse) :
    s.expectInitialize = ⟨some r.kind.reported, s.ds.addressingMode, s.sentProbe⟩ := by
  unfold expectInitialize
  dsimp only
  rw [if_pos h, hr, sentProbe, hr, sentReset]
  split
  · next hidle => exact absurd hidle hk
  · next hillegal => exact absurd hillegal hk1
  · next hnone => exact absurd hnone hk2
  · rfl

end Expected

/-- The comparisons of step 3, case by case (R174). -/
theorem probeDecision_cases (u : State) :
    (u.w.kind = .idle ∧ u.w.payload = params.ifCondPattern ∧
      u.probeDecision params = { u with seq := .initS3V2 }) ∨
    (u.w.kind = .idle ∧ u.w.payload ≠ params.ifCondPattern ∧
      u.probeDecision params = u.raise .invalidVoltageRange) ∨
    ((u.w.kind = .illegalCommand ∨ u.w.kind = .noResponse) ∧
      u.probeDecision params = { u with seq := .initS3V1 }) ∨
    (u.w.kind ≠ .idle ∧ u.w.kind ≠ .illegalCommand ∧ u.w.kind ≠ .noResponse ∧
      u.probeDecision params = u.raise u.w.kind.reported) := by
  unfold probeDecision
  cases hk : u.w.kind
  case idle =>
    by_cases hp : u.w.payload = params.ifCondPattern
    · simp [echoMatches_params, hp]
    · simp [echoMatches_params, hp]
  all_goals simp

namespace Initializing

variable (h : s.Initializing sent u)
include h

/-- Step 4 from its `Arm` on (R175). -/
theorem endsAs_negotiation {version : CardVersion} {mode : AddrMode} (hq : u.seq = .initS4Arm)
    (ha : u.tg.armed = false) (hdelay : u.nextDelay = s.nextDelay) (hversion : u.w.cardVersion = version)
    (hmode : u.ds.addressingMode = mode) (hbyte : version = .v1 → mode = .byte) :
    s.EndsAs (s.expectNegotiation version mode (10 + sent.length) sent) (s.nextDelay + 119) u := by
  let v : State := { u.arm Config.negotiationDeadline with seq := .initS4Test }
  have harm : u.LeadsTo 1 v :=
    leadsTo_line hq rfl rfl h.place ha (by simp [lineStep, callOf, hq, initStep, v])
  have hv : s.Negotiating version mode 0 sent v := by
    obtain ⟨hplace, hinit, hbt, htrace, hans, hbuffer, hhost⟩ := h
    refine ⟨⟨hplace, hinit, hbt, htrace, hans, hbuffer, hhost⟩, ?_, hversion, hmode⟩
    rw [← hdelay]; rfl
  obtain ⟨n, x, hloop, hfew, hmany, hx⟩ := hv.leavesLoop (s.nextDelay + 1) rfl (by omega)
  exact ((harm.trans hloop).endsAs (hx.endsAs hbyte)).mono (by omega)

/-- Step 3's version-2 line (R174). -/
theorem endsAs_v2 {mode : AddrMode} (hq : u.seq = .initS3V2) (ha : u.tg.armed = false)
    (hdelay : u.nextDelay = s.nextDelay) (hmode : u.ds.addressingMode = mode) :
    s.EndsAs (s.expectNegotiation .v2 mode (10 + sent.length) sent) (s.nextDelay + 120) u := by
  have hline : u.LeadsTo 1 { u with w.cardVersion := .v2, seq := .initS4Arm } :=
    leadsTo_line hq rfl rfl h.place ha (by simp [lineStep, callOf, hq, initStep])
  have hend := (h.moved .initS4Arm { u.w with cardVersion := .v2 }).endsAs_negotiation rfl ha hdelay rfl
    hmode nofun
  exact (hline.endsAs hend).mono (by omega)

/-- Step 3's version-1 lines (R174). -/
theorem endsAs_v1 (hq : u.seq = .initS3V1) (ha : u.tg.armed = false) (hdelay : u.nextDelay = s.nextDelay) :
    s.EndsAs (s.expectNegotiation .v1 .byte (10 + sent.length) sent) (s.nextDelay + 121) u := by
  let x : State := { u with w.cardVersion := .v1, seq := .initS3Byte }
  let y : State := { x with ds.addressingMode := .byte, seq := .initS4Arm }
  have hversion : u.LeadsTo 1 x :=
    leadsTo_line hq rfl rfl h.place ha (by simp [lineStep, callOf, hq, initStep, x])
  have hbyte : x.LeadsTo 1 y := leadsTo_line rfl rfl rfl h.place ha rfl
  have hend := ((h.moved .initS4Arm { u.w with cardVersion := .v1 }).moded .byte).endsAs_negotiation rfl ha
    hdelay rfl rfl fun _ => rfl
  exact ((hversion.trans hbyte).endsAs hend).mono (by omega)

end Initializing

end State

end Sys2Proof.Machine
end

section
/-! PROOFS. Steps 1 to 3 of `Initialize`, and its whole run (O28). -/

namespace Sys2Proof.Machine

namespace State

variable {s u v : State} {sent : List Byte} {n : Nat}

/-! ## Steps 1 to 3 -/

namespace Initializing

/-- Step 3 and what follows it (R174 to R178). -/
theorem endsAs_probe (h : s.Initializing s.sentReset u) (hq : u.seq = .initS3Probe)
    (ha : u.tg.armed = false) (hdelay : u.nextDelay = s.nextDelay)
    (hmode : u.ds.addressingMode = s.ds.addressingMode)
    (hreset : (s.reply 12 params.idxReset).kind = .idle) :
    s.EndsAs s.expectInitialize (s.nextDelay + 147) u := by
  have hcall : u.callOf params = some (ifCondCommand params) := by simp [callOf, hq]
  generalize hr : s.reply (12 + (s.reply 12 params.idxReset).transfers) params.idxIfCond = r
  have hreply : s.reply (10 + s.sentReset.length) (ifCondCommand params).index = r := by
    rw [length_sentReset]; exact hr
  have hsent : s.sentReset ++ commandBytes (ifCondCommand params) r = s.sentProbe := by
    rw [sentProbe, hr]
  have hkind := h.transacted_kind_eq hreply
  have hpayload : (u.transacted (ifCondCommand params)).w.payload = r.payload.getD 0#32 := by
    rw [transacted_payload, h.reply_eq, hreply]
  have hheld : r.payload.isSome = r.kind.benign := by rw [← hr]; exact payload_reply_isSome rfl s _
  have hdelay' := (transacted_nextDelay (ifCondCommand params) u).trans hdelay
  have hmode' : (u.transacted (ifCondCommand params)).ds.addressingMode = s.ds.addressingMode := by
    rw [transacted_ds, hmode]
  have hcheck := computed_initS3Check (u := u.transacted (ifCondCommand params)) params rfl
    (by rw [transacted_seq, hq]; rfl)
  have hcases := probeDecision_cases (u.transacted (ifCondCommand params))
  rw [← hcheck, hkind, hpayload] at hcases
  rcases hcases with ⟨hk, hp, hv⟩ | ⟨hk, hp, hv⟩ | ⟨hk, hv⟩ | ⟨hk, hk1, hk2, hv⟩
  · have hsome : r.payload = some params.ifCondPattern := by
      rw [hk] at hheld
      obtain ⟨w, hw⟩ := Option.isSome_iff_exists.1 hheld
      rw [hw] at hp ⊢
      exact congrArg some hp
    rw [expectInitialize_v2 hreset hr hk hsome]
    refine (h.endsAs_of_check hreply hq hcall rfl ha hv rfl fun h' ha' => ?_).mono
      (m := 26 + (s.nextDelay + 120)) (by omega)
    rw [hsent] at h'
    exact h'.endsAs_v2 rfl ha' hdelay' hmode'
  · have hne : r.payload ≠ some params.ifCondPattern := fun he => hp (by rw [he]; rfl)
    rw [expectInitialize_mismatch hreset hr hk hne, ← hsent]
    exact (h.endsAs_of_raise hreply hq hcall rfl ha hmode rfl hv).mono (by omega)
  · rw [expectInitialize_v1 hreset hr hk]
    refine (h.endsAs_of_check hreply hq hcall rfl ha hv rfl fun h' ha' => ?_).mono
      (m := 26 + (s.nextDelay + 121)) (by omega)
    rw [hsent] at h'
    exact h'.endsAs_v1 rfl ha' hdelay'
  · rw [expectInitialize_refused hreset hr hk hk1 hk2, ← hsent]
    exact (h.endsAs_of_raise hreply hq hcall rfl ha hmode rfl hv).mono (by omega)

/-- Step 2 and what follows it (R173 to R178). -/
theorem endsAs_reset (h : s.Initializing (List.replicate 2 params.fill) u) (hq : u.seq = .initS2Reset)
    (ha : u.tg.armed = false) (hdelay : u.nextDelay = s.nextDelay)
    (hmode : u.ds.addressingMode = s.ds.addressingMode) :
    s.EndsAs s.expectInitialize (s.nextDelay + 173) u := by
  have hcall : u.callOf params = some (resetCommand params) := by simp [callOf, hq]
  have hreply : s.reply (10 + (List.replicate 2 params.fill).length) (resetCommand params).index =
      s.reply 12 params.idxReset := rfl
  have hcheck := computed_initS2Check (u := u.transacted (resetCommand params)) params rfl
    (by rw [transacted_seq, hq]; rfl)
  rw [h.transacted_kind_eq hreply] at hcheck
  by_cases hidle : (s.reply 12 params.idxReset).kind = .idle
  · rw [if_pos hidle] at hcheck
    refine (h.endsAs_of_check hreply hq hcall rfl ha hcheck rfl fun h' ha' => ?_).mono
      (m := 26 + (s.nextDelay + 147)) (by omega)
    exact h'.endsAs_probe rfl ha' ((transacted_nextDelay (resetCommand params) u).trans hdelay)
      (by rw [transacted_ds, hmode]) hidle
  · rw [if_neg hidle] at hcheck
    rw [expectInitialize_of_ne hidle]
    exact (h.endsAs_of_raise hreply hq hcall rfl ha hmode rfl hcheck).mono (by omega)

end Initializing

/-- The state in which step 1 begins: uninitialized, the transport enabled, the divider slow (R171). -/
def entered (s : State) : State :=
  { s.startAt .initS1High Work.reset with ds.initialized := false, bt := ⟨false, .slow, true⟩ }

/-- The three lines of the entry, begun with the line released (R171). -/
theorem leadsTo_entered (hcs : s.bt.csAsserted = false) (ha : s.tg.armed = false) :
    (s.startAt .initEntryClear Work.reset).LeadsTo 3 s.entered := by
  let x : State := { s.startAt .initEntryEnable Work.reset with ds.initialized := false }
  let y : State := { x.enable with seq := .initEntryDivider }
  have hclear : (s.startAt .initEntryClear Work.reset).LeadsTo 1 x :=
    leadsTo_line rfl rfl rfl rfl ha rfl
  have henable : x.LeadsTo 1 y := leadsTo_line rfl rfl rfl rfl ha rfl
  have hdivider : y.LeadsTo 1 s.entered := leadsTo_line rfl rfl rfl rfl ha (by
    simp [lineStep, callOf, initStep, y, x, entered, setDivider, hcs])
  exact (hclear.trans henable).trans hdivider

/-- `n` fill bytes clocked at a line of step 1, and on to `next` (R172). -/
def clocked (n : Nat) (next : Pos) (u : State) : State :=
  { u.sendAll (List.replicate n params.fill) with seq := next, w := { u.w with byteCount := 0#10 } }

section Clocked

variable (n : Nat) (next : Pos) (u : State)

@[simp] theorem clocked_ds : (u.clocked n next).ds = u.ds := sendAll_ds _ _
@[simp] theorem clocked_tg : (u.clocked n next).tg = u.tg := sendAll_tg _ _
@[simp] theorem clocked_bt : (u.clocked n next).bt = u.bt := sendAll_bt _ _
@[simp] theorem clocked_seq : (u.clocked n next).seq = next := rfl
@[simp] theorem clocked_cmdSeq : (u.clocked n next).cmdSeq = u.cmdSeq := sendAll_cmdSeq _ _
@[simp] theorem clocked_w : (u.clocked n next).w = { u.w with byteCount := 0#10 } := rfl
@[simp] theorem clocked_host : (u.clocked n next).host = u.host := sendAll_host _ _
@[simp] theorem clocked_buffer : (u.clocked n next).buffer = u.buffer := sendAll_buffer _ _
@[simp] theorem clocked_expiryIn : (u.clocked n next).env.expiryIn = u.env.expiryIn := sendAll_expiryIn _ _
@[simp] theorem clocked_arms : (u.clocked n next).env.arms = u.env.arms := sendAll_arms _ _

theorem clocked_trace : (u.clocked n next).trace = u.trace ++
    u.exchange u.bt.csAsserted u.bt.divider 0 (List.replicate n params.fill) := sendAll_trace _ _

theorem answer_clocked (i : Nat) : (u.clocked n next).answer i = u.answer (n + i) := by
  have h := u.answer_sendAll (List.replicate n params.fill) i
  rwa [List.length_replicate] at h

end Clocked

/-- A counted run of fill bytes, the guard not armed (R172). -/
theorem leadsTo_clocked {k : Nat} {p next : Pos} (hq : u.seq = p) (hr : p.resting = false)
    (hp : p.isPure = false) (hc : u.cmdSeq = .select) (ha : u.tg.armed = false)
    (hb : u.w.byteCount = 0#10) (hk : k + 1 < 1024)
    (hline : ∀ t : State, t.seq = p → lineStep params t = t.clockFill params (k + 1) next) :
    u.LeadsTo (k + 1) (u.clocked (k + 1) next) := by
  have hrun := clockFill_run params hr hk
    (fun t ht hct => (sequencerStep_line params (by rwa [ht]) (by rwa [ht]) hct).trans (hline t ht)) k hq hc
    ha (by rw [hb]; simp)
  rw [← show _ = u.clocked (k + 1) next from hrun]
  exact leadsTo_runSteps _ u

/-- `Init.s1_high` and the `Select` after it, made (R172). -/
def highClocked (u : State) : State :=
  { (u.clocked 10 .initS1Select).selectOuter with seq := .initS1Low }

/-- `Init.s1_low` and the `Restore` after it, made (R172). -/
def lowClocked (u : State) : State :=
  { (u.clocked 2 .initS1Restore).restoreOuter with seq := .initS2Reset }

section Fields

variable (u : State) (i : Nat)

theorem highClocked_trace : u.highClocked.trace = u.trace ++
    u.exchange u.bt.csAsserted u.bt.divider 0 (List.replicate 10 params.fill) :=
  clocked_trace 10 .initS1Select u

theorem lowClocked_trace : u.lowClocked.trace = u.trace ++
    u.exchange u.bt.csAsserted u.bt.divider 0 (List.replicate 2 params.fill) :=
  clocked_trace 2 .initS1Restore u

theorem highClocked_env : u.highClocked.env = (u.clocked 10 .initS1Select).env := rfl

theorem lowClocked_env : u.lowClocked.env = (u.clocked 2 .initS1Restore).env := rfl

theorem answer_highClocked : u.highClocked.answer i = u.answer (10 + i) := by
  rw [← answer_clocked 10 .initS1Select, answer, answer, highClocked_env]

theorem answer_lowClocked : u.lowClocked.answer i = u.answer (2 + i) := by
  rw [← answer_clocked 2 .initS1Restore, answer, answer, lowClocked_env]

end Fields

/-- Ten fill bytes go out with the line released (R172, D17). -/
theorem leadsTo_highClocked (hq : u.seq = .initS1High) (hc : u.cmdSeq = .select)
    (ha : u.tg.armed = false) (hb : u.w.byteCount = 0#10) : u.LeadsTo 11 u.highClocked := by
  have hfills : u.LeadsTo 10 (u.clocked 10 .initS1Select) := leadsTo_clocked hq rfl rfl hc ha hb (by decide)
    fun t ht => by simp [lineStep, callOf, ht, initStep, params]
  exact hfills.trans (leadsTo_line (clocked_seq _ _ _) rfl rfl (by rwa [clocked_cmdSeq])
    (by rwa [clocked_tg]) (by simp [lineStep, callOf, initStep, highClocked]))

/-- Two fill bytes go out with the line asserted (R172, D17). -/
theorem leadsTo_lowClocked (hq : u.seq = .initS1Low) (hc : u.cmdSeq = .select)
    (ha : u.tg.armed = false) (hb : u.w.byteCount = 0#10) : u.LeadsTo 3 u.lowClocked := by
  have hfills : u.LeadsTo 2 (u.clocked 2 .initS1Restore) := leadsTo_clocked hq rfl rfl hc ha hb (by decide)
    fun t ht => by simp [lineStep, callOf, ht, initStep, params]
  exact hfills.trans (leadsTo_line (clocked_seq _ _ _) rfl rfl (by rwa [clocked_cmdSeq])
    (by rwa [clocked_tg]) (by simp [lineStep, callOf, initStep, lowClocked]))

/-- The entry and step 1, begun with the line released (R171, R172). -/
theorem leadsTo_poweredOn (hcs : s.bt.csAsserted = false) (ha : s.tg.armed = false) :
    (s.startAt .initEntryClear Work.reset).LeadsTo 17 s.entered.highClocked.lowClocked :=
  ((leadsTo_entered hcs ha).trans (leadsTo_highClocked rfl rfl ha rfl)).trans
    (leadsTo_lowClocked rfl (by simp [highClocked, entered]) (by simp [highClocked, entered, ha])
      (by simp [highClocked]))

/-- Step 1 leaves `Initialize` at step 2 with the two bytes of `Init.s1_low` sent. -/
theorem initializing_poweredOn (s : State) :
    s.Initializing (List.replicate 2 params.fill) s.entered.highClocked.lowClocked where
  place := by simp [lowClocked, highClocked, entered]
  initialized := by simp [lowClocked, highClocked, entered]
  transport := by simp [lowClocked, highClocked, entered]
  events := by
    have hanswers : ∀ i, s.entered.highClocked.answer i = s.answer (10 + i) := answer_highClocked s.entered
    have hbt : s.entered.highClocked.bt = ⟨true, .slow, true⟩ := by simp [highClocked, entered]
    rw [lowClocked_trace, exchange_eq_of_answer hanswers, hbt, highClocked_trace]
    rfl
  answers i := by
    rw [answer_lowClocked, answer_highClocked, List.length_replicate, Nat.add_assoc]
    rfl
  buffer := by simp [lowClocked, highClocked, entered]
  host := by simp [lowClocked, highClocked, entered]

/-- `Initialize` ends as the second account says (R170 to R181). -/
theorem exists_initialized (hidle : s.seq = .idle) (hcs : s.bt.csAsserted = false) (hg : s.GuardDiscipline) :
    ∃ t, exec .opInitialize s = .next t ∧ s.Initialized s.expectInitialize t := by
  have ha : s.tg.armed = false := hg.disarmed (by rw [hidle]; rfl)
  have hend := (initializing_poweredOn s).endsAs_reset rfl (by simp [lowClocked, highClocked, entered, ha])
    (by simp [nextDelay, lowClocked, highClocked, entered]) (by simp [lowClocked, highClocked, entered])
  obtain ⟨t, hrun, ht⟩ := (leadsTo_poweredOn hcs ha).endsAs hend
  have hrest : t.seq.resting = true := by rw [ht.idle]; rfl
  obtain ⟨n, hn, hsteps⟩ := hrun.exists_run hrest
  refine ⟨t, execInitialize_next.2 ⟨hidle, hcs, runFrom_eq ?_ hsteps hrest⟩, ht⟩
  have hfuel : s.fuel params = s.nextDelay + 738 := rfl
  omega

end State

/-- Settles O28: the run is taken transaction by transaction against the second account. -/
theorem initializeFollowsItsPseudocode : Obligations.InitializeFollowsItsPseudocode := by
  intro s hidle hcs hg
  obtain ⟨t, hexec, ht⟩ := State.exists_initialized hidle hcs hg
  obtain ⟨hseq, hhost, hds, hbt, htrace, ha, hbuffer⟩ := ht
  refine ⟨t, hexec, hseq, ⟨?_, hds, hbt, htrace⟩, ha, hbuffer, by rw [hhost], by rw [hhost]⟩
  rw [hhost]
  cases s.expectInitialize.failure <;> rfl

end Sys2Proof.Machine
end

section
/-! PROOFS. What a run of `Initialize` comes to, read from the second account: all or nothing (O30), the reset
command's answer (O31), the cards that are ready in the first round (O32, O33). -/

namespace Sys2Proof.Machine

namespace State

variable {s t : State}

/-- What `Initialize` answers is the return that the second account expects. -/
theorem initialized_of_exec (hg : s.GuardDiscipline) (hexec : exec .opInitialize s = .next t) :
    s.Initialized s.expectInitialize t := by
  obtain ⟨hidle, hcs, -⟩ := execInitialize_next.1 hexec
  obtain ⟨t', hexec', ht⟩ := exists_initialized hidle hcs hg
  obtain rfl := Host.Outcome.next.inj (hexec'.symm.trans hexec)
  exact ht

/-! ## Bytes and events -/

theorem map_sent_exchange (s : State) (cs : Bool) (d : Divider) (n : Nat) (l : List Byte) :
    (s.exchange cs d n l).map Event.sent = l :=
  List.ext_getElem (by simp [exchange]) (by simp [exchange])

theorem length_exchange (s : State) (cs : Bool) (d : Divider) (n : Nat) (l : List Byte) :
    (s.exchange cs d n l).length = l.length := by
  simp [exchange]

/-- The twelve fill bytes of step 1 and what steps 2 and 3 send, with `l` after them (R172 to R174). -/
theorem fills_sentProbe (s : State) (l : List Byte) :
    List.replicate 10 0xFF#8 ++ (s.sentProbe ++ l) =
      List.replicate 12 0xFF#8 ++ (commandBytes (resetCommand params) (s.reply 12 params.idxReset) ++
        (commandBytes (ifCondCommand params)
          (s.reply (12 + (s.reply 12 params.idxReset).transfers) params.idxIfCond) ++ l)) := by
  simp only [sentProbe, sentReset, List.append_assoc]
  rfl

namespace Initialized

variable {e : InitExpected} (h : s.Initialized e t)
include h

/-- The bytes on the bus: the ten of `Init.s1_high` and those the second account sends. -/
theorem map_sent : t.trace.map Event.sent =
    s.trace.map Event.sent ++ List.replicate 10 0xFF#8 ++ e.sent := by
  rw [h.events, List.map_append, List.map_append, map_sent_exchange, map_sent_exchange]

theorem length_trace : t.trace.length = s.trace.length + 10 + e.sent.length := by
  rw [h.events, List.length_append, List.length_append, length_exchange, length_exchange,
    List.length_replicate]

/-- Success returns `Ok` with the driver initialized and the fast divider (R178). -/
theorem success (he : e.failure = none) : t.host.result = .ok ∧ t.ds = ⟨true, e.mode⟩ ∧
    t.bt = ⟨false, .fast, true⟩ := by
  obtain ⟨-, hhost, hds, hbt, -, -, -⟩ := h
  rw [he] at hhost hds hbt
  exact ⟨by rw [hhost]; rfl, hds, hbt⟩

/-- Failure returns its kind with the driver uninitialized and the slow divider (R179). -/
theorem failure {k : ErrorKind} (he : e.failure = some k) : t.host.result = .err k ∧
    t.ds = ⟨false, e.mode⟩ ∧ t.bt = ⟨false, .slow, true⟩ := by
  obtain ⟨-, hhost, hds, hbt, -, -, -⟩ := h
  rw [he] at hhost hds hbt
  exact ⟨by rw [hhost]; rfl, hds, hbt⟩

/-- A return of `Ok` is a success. -/
theorem success_of_ok (hok : t.host.result = .ok) : e.failure = none := by
  cases he : e.failure with
  | none => rfl
  | some k =>
    obtain ⟨hresult, -, -⟩ := h.failure he
    rw [hok] at hresult
    cases hresult

end Initialized

/-! ## The first round of the negotiation -/

/-- A card that is ready in the first round leaves the loop there (R175). -/
theorem negotiate_of_ready {hcs : Bool} {pos : Nat} {p q : Reply} (hd : 0 < s.nextDelay)
    (hp : s.reply pos params.idxAppPrefix = p) (hq : s.reply (pos + p.transfers) params.idxAppInit = q)
    (hb : p.kind.benign = true) (hok : q.kind = .ok) :
    s.negotiate hcs (s.nextDelay + 1) 0 pos = (none, pos + p.transfers + q.transfers,
      commandBytes (appPrefixCommand params) p ++ commandBytes (appInitCommand params hcs) q) := by
  subst hp hq
  rw [negotiate_answered hd hb]
  exact if_pos hok

end State

/-- Settles O30: the second account either fails with a kind or does not. -/
theorem initializeIsAllOrNothing : Obligations.InitializeIsAllOrNothing := by
  intro s t hg hexec
  have ht := State.initialized_of_exec hg hexec
  refine ⟨?_, by rw [ht.transport], by rw [ht.transport], ht.disarmed, ht.buffer⟩
  cases he : s.expectInitialize.failure with
  | none =>
    obtain ⟨hresult, hds, -⟩ := ht.success he
    exact .inl ⟨hresult, by rw [hds]⟩
  | some k =>
    obtain ⟨hresult, hds, hbt⟩ := ht.failure he
    exact .inr ⟨k, hresult, by rw [hds], by rw [hbt]⟩

/-- A kind that is not `Idle` is reported as itself, `Ok` as `Generic` (R173, D10). -/
theorem ErrorKind.reported_of_ne_idle {k : ErrorKind} (h : k ≠ .idle) :
    k.reported = if k = .ok then .generic else k := by
  cases k
  case idle => exact absurd rfl h
  all_goals rfl

/-- Settles O31: the second account ends at step 2's check. -/
theorem resetCommandMustAnswerIdle : Obligations.ResetCommandMustAnswerIdle := by
  intro s hidle hcs hg hne
  obtain ⟨t, hexec, ht⟩ := State.exists_initialized hidle hcs hg
  have he := State.expectInitialize_of_ne (s := s) hne
  rw [he] at ht
  obtain ⟨hresult, hds, -⟩ := ht.failure rfl
  refine ⟨t, hexec, ?_, by rw [hds], ?_⟩
  · rw [hresult]
    exact congrArg HostResult.err (ErrorKind.reported_of_ne_idle hne)
  · have hlen := s.length_sentReset
    rw [ht.length_trace, Nat.add_assoc, hlen, ← Nat.add_assoc]
    rfl

/-- Settles O32: the second account over a version-1 card. -/
theorem versionOneCardInitializes : Obligations.VersionOneCardInitializes := by
  intro s hidle hcs hg hd r0 r8 r55 r41 r16 h0 h8 h55 h41 h16
  obtain ⟨t, hexec, ht⟩ := State.exists_initialized hidle hcs hg
  have hpos : 10 + s.sentProbe.length = 12 + r0.transfers + r8.transfers := s.length_sentProbe
  have hneg := State.negotiate_of_ready (hcs := false) (p := r55) (q := r41) hd rfl rfl h55 h41
  have he := State.expectInitialize_v1 h0 (r := r8) rfl h8
  rw [hpos, State.expectNegotiation_v1 hneg, State.expectBlocklen_of_ok h16] at he
  rw [he] at ht
  obtain ⟨hresult, hds, hbt⟩ := ht.success rfl
  refine ⟨t, hexec, hresult, hds, hbt, ?_⟩
  rw [ht.map_sent]
  simp only [List.append_assoc, State.fills_sentProbe]
  rfl

/-- Settles O33: the second account over a version-2 block-addressed card. -/
theorem versionTwoBlockCardInitializes : Obligations.VersionTwoBlockCardInitializes := by
  intro s ocr hidle hcs hg hd r0 r8 r55 r41 r58 h0 h8 hecho h55 h41 h58 hocr
  obtain ⟨t, hexec, ht⟩ := State.exists_initialized hidle hcs hg
  have hpos : 10 + s.sentProbe.length = 12 + r0.transfers + r8.transfers := s.length_sentProbe
  have hneg := State.negotiate_of_ready (hcs := true) (p := r55) (q := r41) hd rfl rfl h55 h41
  have hmode : ocrMode params ocr = .block := if_pos hocr
  have he := State.expectInitialize_v2 h0 (r := r8) rfl h8 hecho
  rw [hpos, State.expectNegotiation_v2_block hneg h58 hmode] at he
  rw [he] at ht
  obtain ⟨hresult, hds, hbt⟩ := ht.success rfl
  refine ⟨t, hexec, hresult, hds, hbt, ?_⟩
  rw [ht.map_sent]
  simp only [List.append_assoc, State.fills_sentProbe]
  rfl

end Sys2Proof.Machine
end

section
/-! PROOFS. Steps of `Initialize`: its last three (O29), and that its commands fit the card (O22). -/

namespace Sys2Proof.Machine

/-! ## The last three lines -/

/-- At a line that is no pure computation, the guard not armed, a step is that line's, what stands inside a
transaction computed (R9). -/
theorem busStep_line (c : Params) {s : State} {p : Pos} (hq : s.seq = p) (hr : p.resting = false)
    (hp : p.isPure = false) (ha : s.tg.armed = false) :
    busStep c s = lineStep c (s.computed c) ∧ (s.computed c).seq = p := by
  subst hq
  exact ⟨by rw [busStep_disarmed c ha, sequencerStep_eq c hr],
    by rw [State.computed_seq, operationDecision_of_line s c hp]⟩

/-- Settles O29: the three lines one by one; the flag rises at completion only (O15), and a run that returns
`Ok` is one that the second account expects to succeed. -/
theorem speedUpCompletesInitialize : Obligations.SpeedUpCompletesInitialize := by
  refine ⟨fun c s hq ha => ?_, fun c s hq ha => ?_, fun c s hq ha => ?_, fun c s hlow hup => ?_,
    fun s t hg hexec hok => ?_⟩
  · obtain ⟨hstep, hline⟩ := busStep_line c hq rfl rfl ha
    have hspeed : lineStep c (s.computed c) = { (s.computed c).setDivider .fast with seq := .initDone } := by
      simp [lineStep, State.callOf, hline, initStep]
    rw [hstep, hspeed]
    exact ⟨rfl, rfl, s.computed_trace c⟩
  · obtain ⟨hstep, hline⟩ := busStep_line c hq rfl rfl ha
    have hdone : lineStep c (s.computed c) =
        { s.computed c with ds.initialized := true, seq := .initReturn } := by
      simp [lineStep, State.callOf, hline, initStep]
    rw [hstep, hdone]
    exact ⟨rfl, rfl, by rw [← s.computed_ds c]⟩
  · obtain ⟨hstep, hline⟩ := busStep_line c hq rfl rfl ha
    have hreturn : lineStep c (s.computed c) = (s.computed c).deliver .ok := by
      simp [lineStep, State.callOf, hline, initStep]
    rw [hstep, hreturn]
    exact ⟨rfl, rfl, s.computed_ds c⟩
  · obtain ⟨hds, -⟩ := onlyInitializeWritesDriverState c s
    rcases hds (by rw [hlow, hup]; decide) with ⟨-, h⟩ | ⟨hq, -⟩
    · rw [hup] at h; cases h
    · exact hq
  · have ht := State.initialized_of_exec hg hexec
    obtain ⟨-, hds, hbt⟩ := ht.success (ht.success_of_ok hok)
    exact ⟨by rw [hbt], by rw [hbt], ht.disarmed, by rw [hds]⟩

/-! ## The commands fit the card -/

/-- Step 5 is entered from the check of the version only (R181). -/
theorem eq_of_ocr_mem_decisions {q : Pos} (h : .initS5Ocr ∈ q.decisions) :
    q = .initS5Ocr ∨ q = .initVersionCheck := by
  cases q <;> simp [Pos.decisions] at h ⊢

/-- Step 6 is entered from the checks of the version and of the mode only (R181). -/
theorem eq_of_blocklen_mem_decisions {q : Pos} (h : .initS6Blocklen ∈ q.decisions) :
    q = .initS6Blocklen ∨ q = .initVersionCheck ∨ q = .initModeCheck := by
  cases q <;> simp [Pos.decisions] at h ⊢

/-- Steps 5 and 6 are left by no line but their own. -/
theorem eq_of_mem_successors {p q : Pos} (hp : p = .initS5Ocr ∨ p = .initS6Blocklen)
    (h : p ∈ q.successors) : q = p := by
  rcases hp with rfl | rfl <;> cases q <;> simp [Pos.successors] at h ⊢

theorem AddrMode.byte_of_line {mode : AddrMode} (h : mode.line = .initS6Blocklen) : mode = .byte := by
  cases mode
  · rfl
  · cases h

/-- No step of a transaction writes the card's version (R31, R124). -/
theorem transactionStep_cardVersion (c : Params) (k : Command) (s : State) :
    (transactionStep c k s).w.cardVersion = s.w.cardVersion := by
  by_cases hselect : s.cmdSeq = .select
  · rw [transactionStep, hselect]; rfl
  · by_cases hreturn : s.cmdSeq = .callReturn
    · rw [transactionStep, hreturn]; rfl
    · rw [transactionStep_w c k hselect hreturn]

namespace State

variable (c : Params) {s : State}

/-- The check of the version (R181). -/
theorem computed_seq_of_versionCheck (hq : s.seq = .initVersionCheck) : (s.computed c).seq =
    if s.w.cardVersion = .v2 then .initS5Ocr else s.ds.addressingMode.line := by
  rw [computed_seq]
  cases hv : s.w.cardVersion <;>
    simp [operationDecision, initDecision, hq, versionDecision, hv, modeDecision_eq]

/-- The check of the mode (R177, R181). -/
theorem computed_seq_of_modeCheck (hq : s.seq = .initModeCheck) :
    (s.computed c).seq = s.ds.addressingMode.line := by
  rw [computed_seq]
  simp [operationDecision, initDecision, hq, modeDecision_eq]

namespace CommandsFitTheCard

variable (h : s.CommandsFitTheCard)
include h

/-- The addressing query is computed for a version-2 card only, the fixed block length under byte addressing
only (R181). -/
theorem computed : (s.computed c).CommandsFitTheCard := by
  obtain ⟨hocr, hblocklen⟩ := h
  have hmem := s.computed_seq_mem c
  unfold CommandsFitTheCard
  rw [computed_cardVersion, computed_ds]
  constructor
  · intro hseq
    rw [hseq] at hmem
    rcases eq_of_ocr_mem_decisions hmem with hq | hq
    · exact hocr hq
    · rw [computed_seq_of_versionCheck c hq] at hseq
      by_contra hne
      rw [if_neg hne] at hseq
      cases hm : s.ds.addressingMode <;> rw [hm] at hseq <;> cases hseq
  · intro hseq
    rw [hseq] at hmem
    rcases eq_of_blocklen_mem_decisions hmem with hq | hq | hq
    · exact hblocklen hq
    · rw [computed_seq_of_versionCheck c hq] at hseq
      split at hseq
      · cases hseq
      · exact AddrMode.byte_of_line hseq
    · rw [computed_seq_of_modeCheck c hq] at hseq
      exact AddrMode.byte_of_line hseq

/-- Inside the two commands the card's version and the addressing mode stay. -/
theorem lineStep : (lineStep c s).CommandsFitTheCard := by
  obtain ⟨hocr, hblocklen⟩ := h
  have hmem := lineStep_seq_mem s c
  constructor
  · intro hseq
    have hq : s.seq = .initS5Ocr := eq_of_mem_successors (.inl rfl) (hseq ▸ hmem)
    obtain ⟨k, hk⟩ := callOf_of_isCall c (by rw [hq]; rfl : s.seq.isCall = true)
    rw [lineStep_of_call s c hk, transactionStep_cardVersion]
    exact hocr hq
  · intro hseq
    have hq : s.seq = .initS6Blocklen := eq_of_mem_successors (.inr rfl) (hseq ▸ hmem)
    rw [lineStep_ds, hq]
    exact hblocklen hq

end CommandsFitTheCard

end State

/-- Settles O22: the handler and the countdown touch neither clause; the pure computations and the lines keep
both. -/
theorem commandsFitTheCardAtEveryStep : Obligations.CommandsFitTheCardAtEveryStep := by
  intro c s h
  rcases busStep_cases c s with ⟨-, e⟩ | ⟨-, e⟩
  · rw [e]; exact h
  · have htick : s.tick.CommandsFitTheCard := by
      unfold State.CommandsFitTheCard
      rwa [State.tick_seq, State.tick_w, State.tick_ds]
    rw [e]
    cases hr : s.tick.seq.resting with
    | false => rw [sequencerStep_eq c hr]; exact (htick.computed c).lineStep c
    | true => rw [sequencerStep_resting c hr]; exact htick

end Sys2Proof.Machine
end

section
/-! PROOFS. `ReadBlock` line by line (R201 to R207): where it stands between two lines, and how it ends from
each line outside the guarded wait on. -/

namespace Sys2Proof.Machine

namespace State

/-! ## The computations of `ReadBlock` -/

section Computed

variable {u : State} (c : Params) (hc : u.cmdSeq = .select)
include hc

theorem computed_readCheck (hq : u.seq = .readCheck) : u.computed c = u.readCheck :=
  (computed_of_select c hc).trans (by simp [operationDecision, readDecision, hq])

theorem computed_readStatusCheck (hq : u.seq = .readStatusCheck) : u.computed c =
    if u.w.kind = .ok then { u with seq := .readArm } else u.raise u.w.kind.reported :=
  (computed_of_select c hc).trans (by simp [operationDecision, readDecision, hq])

theorem computed_readWaitCheck (hq : u.seq = .readWaitCheck) : u.computed c = u.tokenDecision c :=
  (computed_of_select c hc).trans (by simp [operationDecision, readDecision, hq])

end Computed

/-! ## The second account -/

section Expected

variable {s : State} {n : Word}

/-- The command's bytes as the second account sends them (R203). -/
def sentRead (s : State) (n : Word) : List Byte :=
  commandBytes (readSingleCommand params (translate s.ds.addressingMode n)) (s.reply 0 params.idxReadSingle)

theorem length_sentRead (s : State) (n : Word) :
    (s.sentRead n).length = (s.reply 0 params.idxReadSingle).transfers :=
  length_commandBytes _ _

/-- Before a successful `Initialize` nothing is sent (R201). -/
theorem expectReadBlock_uninitialized (h : s.ds.initialized = false) :
    s.expectReadBlock n = ⟨some .notInitialized, [], 0⟩ := by
  simp [expectReadBlock, h]

/-- What is expected once the wait, entered with `sent` sent, is left as `o` says: `Timeout`, or after the
token the data and the trailer (R204 to R206). -/
def afterWait (sent : List Byte) (o : Option Nat × List Byte) : ReadExpected :=
  match o with
  | (none, more) => ⟨some .timeout, sent ++ more, 0⟩
  | (some start, more) => ⟨none, sent ++ more ++ List.replicate (512 + 2) params.fill, start⟩

variable (h : s.ds.initialized = true)
include h

/-- The command not answered with `Ok` is the end (R203). -/
theorem expectReadBlock_refused (hk : (s.reply 0 params.idxReadSingle).kind ≠ .ok) :
    s.expectReadBlock n = ⟨some (s.reply 0 params.idxReadSingle).kind.reported, s.sentRead n, 0⟩ := by
  simp [expectReadBlock, h, hk, sentRead]

/-- After `Ok` the wait decides (R204). -/
theorem expectReadBlock_ok (hk : (s.reply 0 params.idxReadSingle).kind = .ok) :
    s.expectReadBlock n =
      afterWait (s.sentRead n) (s.waitToken (s.nextDelay + 1) 0 (s.sentRead n).length) := by
  rw [length_sentRead, expectReadBlock, if_pos h]
  dsimp only
  rw [if_pos hk]
  rfl

end Expected

/-! ## Where `ReadBlock` stands, and how it ends -/

/-- `u` stands between two lines of the `ReadBlock` begun in `s`, selected and not yet released, with `sent`
sent, the buffer holding `m` and no counted transfer in progress. -/
structure Reading (s : State) (sent : List Byte) (m : Memory) (u : State) : Prop where
  place : u.cmdSeq = .select
  driver : u.ds = s.ds
  transport : u.bt = { s.bt with csAsserted := true }
  prior : u.w.priorOuter = s.bt.csAsserted
  counter : u.w.byteCount = 0#10
  events : u.trace = s.trace ++ s.exchange true s.bt.divider 0 sent
  answers : ∀ i, u.answer i = s.answer (sent.length + i)
  buffer : u.buffer = m
  request : u.host.request = s.host.request

/-- `t` is the return of the `ReadBlock` begun in `s`, as `e` expects it (R207 to R209). -/
structure BlockRead (s : State) (e : ReadExpected) (t : State) : Prop where
  idle : t.seq = .idle
  result : t.host.result = e.failure.elim .ok .err
  request : t.host.request = s.host.request
  driver : t.ds = s.ds
  transport : t.bt = s.bt
  events : t.trace = s.trace ++ s.exchange true s.bt.divider 0 e.sent
  disarmed : t.tg.armed = false
  stored : e.failure = none → ∀ a, t.buffer.read a =
    if a < 512 then some (s.answer (e.dataStart + a)) else s.buffer.read a
  kept : e.failure ≠ none → t.buffer = s.buffer

/-- From `u` on the `ReadBlock` begun in `s` ends as `e` expects it, within `n` steps. -/
def ReadsAs (s : State) (e : ReadExpected) (n : Nat) (u : State) : Prop :=
  ∃ t, u.LeadsTo n t ∧ s.BlockRead e t

variable {s u v : State} {sent : List Byte} {m : Memory} {e : ReadExpected} {k n : Nat}

theorem LeadsTo.readsAs (h : u.LeadsTo k v) (h' : s.ReadsAs e n v) : s.ReadsAs e (k + n) u := by
  obtain ⟨t, ht, hend⟩ := h'
  exact ⟨t, h.trans ht, hend⟩

theorem ReadsAs.mono (h : s.ReadsAs e k u) (hkn : k ≤ n) : s.ReadsAs e n u := by
  obtain ⟨t, ht, hend⟩ := h
  exact ⟨t, ht.mono hkn, hend⟩

namespace Reading

variable (h : s.Reading sent m u)
include h

/-- Where `ReadBlock` stands does not depend on the position and the working registers, but for the level
saved and the counter. -/
theorem moved (p : Pos) {w : Work} (hprior : w.priorOuter = u.w.priorOuter) (hcount : w.byteCount = 0#10) :
    s.Reading sent m { u with seq := p, w := w } := by
  obtain ⟨hplace, hds, hbt, hp, -, htrace, hans, hbuffer, hreq⟩ := h
  exact ⟨hplace, hds, hbt, hprior.trans hp, hcount, htrace, hans, hbuffer, hreq⟩

/-- Nor does it on the guard. -/
theorem withGuard (tg : TimeoutGuard) (n : Nat) : s.Reading sent m (u.withGuard tg n) := by
  obtain ⟨hplace, hds, hbt, hp, hcount, htrace, hans, hbuffer, hreq⟩ := h
  exact ⟨hplace, hds, hbt, hp, hcount, htrace, hans, hbuffer, hreq⟩

/-- A kind raised moves the position only (R252). -/
theorem raised (kind : ErrorKind) : s.Reading sent m (u.raise kind) :=
  h.moved u.seq.abort (w := { u.w with kind := kind }) rfl h.counter

/-- Another content of the buffer. -/
theorem stored (m' : Memory) : s.Reading sent m' { u with buffer := m' } := by
  obtain ⟨hplace, hds, hbt, hp, hcount, htrace, hans, -, hreq⟩ := h
  exact ⟨hplace, hds, hbt, hp, hcount, htrace, hans, rfl, hreq⟩

/-- Bytes exchanged stand after those sent before. -/
theorem sentAll (l : List Byte) : s.Reading (sent ++ l) m (u.sendAll l) := by
  obtain ⟨hplace, hds, hbt, hp, hcount, htrace, hans, hbuffer, hreq⟩ := h
  refine ⟨by rwa [sendAll_cmdSeq], by rwa [sendAll_ds], by rwa [sendAll_bt], by rwa [sendAll_w],
    by rwa [sendAll_w], ?_, fun i => ?_, by rwa [sendAll_buffer], by rwa [sendAll_host]⟩
  · rw [sendAll_trace, htrace, hbt, exchange_eq_of_answer hans, exchange_append, Nat.zero_add,
      List.append_assoc]
  · rw [answer_sendAll, hans, List.length_append, Nat.add_assoc]

/-- A transaction's bytes stand after those sent before; it brings the line back and clears the counter. -/
theorem transacted (k : Command) : s.Reading
    (sent ++ commandBytes k (s.reply sent.length k.index)) m (u.transacted k) := by
  have hreply := reply_eq_of_answer h.answers k.index
  obtain ⟨-, hds, hbt, hp, -, htrace, hans, hbuffer, hreq⟩ := h
  refine ⟨rfl, by rwa [transacted_ds], by rwa [transacted_bt], hp, rfl, ?_, fun i => ?_,
    by rwa [transacted_buffer], by rwa [transacted_host]⟩
  · rw [transacted_trace, htrace, hbt, hreply, exchange_eq_of_answer hans, exchange_append, Nat.zero_add,
      List.append_assoc]
  · rw [answer_transacted, hreply, hans, List.length_append, length_commandBytes, Nat.add_assoc]

/-! ### Returns -/

/-- The line as the `Restore` leaves it is that of the entry (R207, R252). -/
theorem restoreOuter_bt_eq : u.restoreOuter.bt = s.bt := by
  rw [restoreOuter_bt, h.transport, h.prior]

/-- The release and the return of `Ok` (R207). -/
theorem readsAs_release {start : Nat} (hq : u.seq = .readRelease) (ha : u.tg.armed = false)
    (hm : ∀ a, m.read a = if a < 512 then some (s.answer (start + a)) else s.buffer.read a) :
    s.ReadsAs ⟨none, sent, start⟩ 2 u := by
  have hbt := h.restoreOuter_bt_eq
  obtain ⟨hplace, hds, -, -, -, htrace, -, rfl, hreq⟩ := h
  let v : State := { u.restoreOuter with seq := .readReturn }
  have hrestore : u.LeadsTo 1 v :=
    leadsTo_line hq rfl rfl hplace ha (by simp [lineStep, callOf, hq, readStep, v])
  have hreturn : v.LeadsTo 1 (v.deliver .ok) := leadsTo_line rfl rfl rfl hplace ha rfl
  exact ⟨_, hrestore.trans hreturn, rfl, rfl, hreq, hds, hbt, htrace, ha, fun _ => hm,
    fun hne => absurd rfl hne⟩

/-- The abort, selected: the `Restore` and the return of the kind raised (R252). -/
theorem readsAs_abort {kind : ErrorKind} (hq : u.seq = .readAbortRestore) (hkind : u.w.kind = kind)
    (hm : m = s.buffer) (ha : u.tg.armed = false) : s.ReadsAs ⟨some kind, sent, 0⟩ 2 u := by
  subst hkind
  have hbt := h.restoreOuter_bt_eq
  obtain ⟨hplace, hds, -, -, -, htrace, -, hbuffer, hreq⟩ := h
  let v : State := { u.restoreOuter with seq := .readFail }
  have hrestore : u.LeadsTo 1 v :=
    leadsTo_line hq rfl rfl hplace ha (by simp [lineStep, callOf, hq, readStep, v])
  have hreturn : v.LeadsTo 1 (v.deliver (.err v.w.kind)) := leadsTo_line rfl rfl rfl hplace ha rfl
  exact ⟨_, hrestore.trans hreturn, rfl, rfl, hreq, hds, hbt, htrace, ha, nofun,
    fun _ => hbuffer.trans hm⟩

/-! ### The data and the trailer -/

/-- The trailer's two bytes are taken, and the block released (R206, R207). -/
theorem readsAs_trailer {start : Nat} (hq : u.seq = .readTrailer) (ha : u.tg.armed = false)
    (hm : ∀ a, m.read a = if a < 512 then some (s.answer (start + a)) else s.buffer.read a) :
    s.ReadsAs ⟨none, sent ++ List.replicate 2 params.fill, start⟩ 4 u := by
  have hfills : u.LeadsTo 2 (u.clocked 2 .readRelease) :=
    leadsTo_clocked hq rfl rfl h.place ha h.counter (by decide)
      fun t ht => by simp [lineStep, callOf, ht, readStep, params]
  have hstands : s.Reading (sent ++ List.replicate 2 params.fill) m (u.clocked 2 .readRelease) :=
    (h.sentAll _).moved .readRelease (by rw [sendAll_w]) rfl
  exact hfills.readsAs (hstands.readsAs_release rfl (by rwa [clocked_tg]) hm)

/-- What the buffer reads as once the next `count` answers are stored from position 0 on (R205). -/
theorem read_answers (count a : Nat) : (m.writeAll 0 (u.answers count)).read a =
    if a < count then some (s.answer (sent.length + a)) else m.read a := by
  have hlen : (u.answers count).length = count := by simp [State.answers]
  rw [Memory.read_writeAll]
  by_cases ha : a < count
  · rw [dif_pos ⟨Nat.zero_le a, by rwa [hlen]⟩, if_pos ha, ← h.answers]
    simp [State.answers]
  · rw [dif_neg fun h' => ha (by rw [← hlen]; exact h'.2), if_neg ha]

/-- The data phase stores the bytes that follow, and goes on to the trailer (R205). -/
theorem leadsTo_trailer {count : Nat} (hcount : count = 512) (hq : u.seq = .readData)
    (ha : u.tg.armed = false) : ∃ v, u.LeadsTo count v ∧
    s.Reading (sent ++ List.replicate count params.fill) (m.writeAll 0 (u.answers count)) v ∧
    v.seq = .readTrailer ∧ v.tg.armed = false := by
  obtain ⟨k, rfl⟩ : ∃ k, count = k + 1 := ⟨511, hcount⟩
  have hdata := data_run params rfl k hq h.place ha (by rw [h.counter]; simpa using hcount)
  rw [h.counter, h.buffer] at hdata
  have hrun := leadsTo_runSteps (k + 1) u
  rw [hdata] at hrun
  have hstands := ((h.sentAll (List.replicate (k + 1) params.fill)).moved .readTrailer
    (w := { u.w with byteCount := 0#10 }) (by rw [sendAll_w]) rfl).stored
    (m.writeAll 0 (u.answers (k + 1)))
  exact ⟨_, hrun, hstands, rfl, by dsimp only; rwa [sendAll_tg]⟩

/-- The data, the trailer and the release (R205 to R207). -/
theorem readsAs_data (hq : u.seq = .readData) (hm : m = s.buffer) (ha : u.tg.armed = false) :
    s.ReadsAs ⟨none, sent ++ List.replicate (512 + 2) params.fill, sent.length⟩ 516 u := by
  subst hm
  obtain ⟨v, hdata, hv, hq', ha'⟩ := h.leadsTo_trailer rfl hq ha
  have hend := hv.readsAs_trailer hq' ha' (h.read_answers 512)
  rw [List.append_assoc, ← List.replicate_add] at hend
  exact hdata.readsAs hend

end Reading

end State

end Sys2Proof.Machine
end

section
/-! PROOFS. The start-token wait of `ReadBlock` under the guard (R204): the rounds of its loop, whenever the
guard expires. -/

namespace Sys2Proof.Machine

namespace State

variable {s u v : State} {sent : List Byte} {m : Memory}

/-! ## The second account of the wait -/

section Expected

variable {rounds steps pos : Nat}

theorem waitToken_expired (h : s.nextDelay ≤ steps) : s.waitToken rounds steps pos = (none, []) := by
  cases rounds <;> simp [waitToken, h]

variable (hd : steps < s.nextDelay)
include hd

theorem waitToken_token (hb : s.answer pos = params.startToken) :
    s.waitToken (rounds + 1) steps pos = (some (pos + 1), [params.fill]) := by
  rw [waitToken, if_neg (Nat.not_le.2 hd), if_pos hb]

theorem waitToken_other (hb : s.answer pos ≠ params.startToken) :
    s.waitToken (rounds + 1) steps pos = ((s.waitToken rounds (steps + 2) (pos + 1)).1,
      params.fill :: (s.waitToken rounds (steps + 2) (pos + 1)).2) := by
  rw [waitToken, if_neg (Nat.not_le.2 hd), if_neg hb]

end Expected

/-! ## Where the wait stands -/

/-- `u` stands between two lines of the start-token wait, `steps` sequencer steps after its `Arm`: the guard is
as those steps leave it (R156). -/
structure Awaiting (s : State) (steps : Nat) (sent : List Byte) (m : Memory) (u : State) : Prop
    extends s.Reading sent m u where
  guard : (u.tg, u.env.countdown) = guardAfter steps ⟨false, true⟩ s.nextDelay

/-- The agents' steps over two runs of the sequencer's steps: the handler has its one step in either. -/
theorem guardSteps_add (i j : Nat) (tg : TimeoutGuard) (countdown : Nat) :
    guardSteps (i + j) tg countdown =
      guardSteps i tg countdown + guardSteps j (guardAfter i tg countdown).1 (guardAfter i tg countdown).2 := by
  cases ha : tg.armed with
  | false => simp [guardSteps, guardAfter, ha]
  | true =>
    by_cases hi : i ≤ countdown
    · simp only [guardSteps, guardAfter, ha, hi, true_and, if_true]
      split <;> split <;> split <;> omega
    · have hlt : countdown < i := by omega
      have hlt' : countdown < i + j := by omega
      simp only [guardSteps, guardAfter, ha, hi, hlt, hlt', true_and, if_true, if_false,
        Bool.false_eq_true, false_and]
      omega

theorem sequencerStep_waitTest (hq : u.seq = .readWaitTest) (hc : u.cmdSeq = .select) :
    sequencerStep params u = u.waitTest := by
  rw [sequencerStep_line params (by rw [hq]; rfl) (by rw [hq]; rfl) hc]
  simp [lineStep, callOf, hq, readStep]

theorem sequencerStep_waitXfer (hq : u.seq = .readWaitXfer) (hc : u.cmdSeq = .select) :
    sequencerStep params u = u.waitXfer params := by
  rw [sequencerStep_line params (by rw [hq]; rfl) (by rw [hq]; rfl) hc]
  simp [lineStep, callOf, hq, readStep]

namespace Awaiting

variable {steps : Nat} (h : s.Awaiting steps sent m u)
include h

/-- One step more, the handler perhaps before it. -/
theorem leadsTo_step (hs : u.seq.resting = false) : ∃ g : TimeoutGuard × Nat,
    g = guardAfter (steps + 1) ⟨false, true⟩ s.nextDelay ∧
    u.LeadsTo (guardSteps 1 u.tg u.env.countdown) (sequencerStep params (u.withGuard g.1 g.2)) := by
  refine ⟨guardAfter 1 u.tg u.env.countdown, ?_, leadsTo_sequencerStep hs⟩
  rw [guardAfter_add, ← h.guard]

/-- The agents' steps to a state `i` sequencer steps later, and those from there on. -/
theorem guardSteps_later {i j : Nat} {sent' : List Byte} (hv : s.Awaiting (steps + i) sent' m v) :
    guardSteps i u.tg u.env.countdown + guardSteps j v.tg v.env.countdown =
      guardSteps (i + j) u.tg u.env.countdown := by
  have hg : (v.tg, v.env.countdown) = guardAfter i u.tg u.env.countdown := by
    rw [hv.guard, guardAfter_add, ← h.guard]
  rw [guardSteps_add, ← hg]

/-- The wait's test, the flag seen up or not: on to the next byte, or to the abort with `Timeout` (R204). -/
theorem test (hq : u.seq = .readWaitTest) : ∃ v, u.LeadsTo (guardSteps 1 u.tg u.env.countdown) v ∧
    s.Awaiting (steps + 1) sent m v ∧
    (s.nextDelay ≤ steps → v.seq = .readAbortDisarm ∧ v.w.kind = .timeout) ∧
    (steps < s.nextDelay → v.seq = .readWaitXfer) := by
  obtain ⟨g, hg, hrun⟩ := h.leadsTo_step (by rw [hq]; rfl)
  have hexpired : g.1.expired = decide (s.nextDelay ≤ steps) := by rw [hg, guardAfter_expired]
  rw [sequencerStep_waitTest (u := u.withGuard g.1 g.2) hq h.place, waitTest_eq, withGuard_tg, hexpired] at hrun
  refine ⟨_, hrun, ?_, fun hd => ?_, fun hd => ?_⟩
  · split
    · exact ⟨(h.withGuard _ _).moved _ rfl h.counter, hg⟩
    · exact ⟨(h.withGuard _ _).moved _ rfl h.counter, hg⟩
  · rw [if_pos (decide_eq_true hd)]
    exact ⟨by rw [raise_seq, withGuard_seq, hq]; rfl, rfl⟩
  · rw [if_neg (by simpa using hd)]

/-- One byte of the wait and its comparison: out of the loop at the token, else another round (R204, D19). -/
theorem byte (hq : u.seq = .readWaitXfer) : ∃ v, u.LeadsTo (guardSteps 1 u.tg u.env.countdown) v ∧
    s.Awaiting (steps + 1) (sent ++ [params.fill]) m v ∧
    v.seq = if s.answer sent.length = params.startToken then .readWaitDisarm else .readWaitTest := by
  obtain ⟨g, hg, hrun⟩ := h.leadsTo_step (by rw [hq]; rfl)
  rw [sequencerStep_waitXfer (u := u.withGuard g.1 g.2) hq h.place] at hrun
  generalize hx : (u.withGuard g.1 g.2).waitXfer params = x at hrun
  have hstands : s.Reading (sent ++ [params.fill]) m x :=
    hx ▸ ((h.withGuard g.1 g.2).sentAll [params.fill]).moved .readWaitCheck rfl h.counter
  have hbyte : x.w.waitByte = s.answer sent.length := by
    rw [← hx, waitXfer_w, ← answer_zero]
    exact h.answers 0
  have hxq : x.seq = .readWaitCheck := by rw [← hx]; rfl
  have hcheck : x.computed params =
      { x with seq := if s.answer sent.length = params.startToken then .readWaitDisarm else .readWaitTest } := by
    rw [computed_readWaitCheck params hstands.place hxq, tokenDecision, hbyte]
    split <;> rfl
  have hdecide := leadsTo_computed (s := x) hstands.place (by rw [hxq]; rfl)
    (by rw [hcheck]; dsimp only; split <;> rfl)
  rw [hcheck] at hdecide
  exact ⟨_, hrun.trans hdecide, ⟨hstands.moved _ rfl hstands.counter, by rw [← hx]; exact hg⟩, rfl⟩

end Awaiting

/-! ## How the wait ends -/

/-- `v` stands where the wait is left as `o` says, entered with `sent` sent: at its `Disarm` after the token,
or at the abort with `Timeout` raised (R204, R252). -/
structure Awaited (s : State) (sent : List Byte) (m : Memory) (o : Option Nat × List Byte) (v : State) : Prop
    extends s.Reading (sent ++ o.2) m v where
  found : ∀ start, o.1 = some start → v.seq = .readWaitDisarm ∧ start = (sent ++ o.2).length
  timeout : o.1 = none → v.seq = .readAbortDisarm ∧ v.w.kind = .timeout

/-- From `u` on, `steps` sequencer steps after the `Arm` and with `rounds` tests to come, the wait is left as
the second account says, within what the delay leaves and two sequencer steps more. -/
def LeavesWait (s : State) (rounds steps : Nat) (sent : List Byte) (m : Memory) (u : State) : Prop :=
  ∃ j v, j + steps ≤ s.nextDelay + 2 ∧ u.LeadsTo (guardSteps j u.tg u.env.countdown) v ∧
    s.Awaited sent m (s.waitToken rounds steps sent.length) v

namespace Awaiting

variable {steps : Nat}

/-- The delay is over at the wait's test: `Timeout` (R204). -/
theorem leavesWait_expired (h : s.Awaiting steps sent m u) (hq : u.seq = .readWaitTest)
    (hd : s.nextDelay ≤ steps) (hlate : steps ≤ s.nextDelay + 1) (rounds : Nat) :
    s.LeavesWait rounds steps sent m u := by
  obtain ⟨v, hrun, hv, hexpired, -⟩ := h.test hq
  refine ⟨1, v, by omega, hrun, ?_⟩
  rw [waitToken_expired hd]
  rw [← List.append_nil sent] at hv
  exact ⟨hv.toReading, nofun, fun _ => hexpired hd⟩

/-- The wait ends as the second account says (R204, R157). -/
theorem leavesWait (rounds : Nat) (h : s.Awaiting steps sent m u) (hq : u.seq = .readWaitTest)
    (hrounds : s.nextDelay < rounds + steps) (hlate : steps ≤ s.nextDelay + 1) :
    s.LeavesWait rounds steps sent m u := by
  induction rounds generalizing steps sent u with
  | zero => exact h.leavesWait_expired hq (by omega) hlate 0
  | succ rounds ih =>
    by_cases hd : s.nextDelay ≤ steps
    · exact h.leavesWait_expired hq hd hlate _
    · have hlt : steps < s.nextDelay := Nat.not_le.1 hd
      obtain ⟨x, htest, hx, -, hpasses⟩ := h.test hq
      obtain ⟨y, hbyte, hy, hseq⟩ := hx.byte (hpasses hlt)
      have hround := htest.trans hbyte
      rw [h.guardSteps_later hx] at hround
      by_cases hb : s.answer sent.length = params.startToken
      · rw [if_pos hb] at hseq
        refine ⟨2, y, by omega, hround, ?_⟩
        rw [waitToken_token hlt hb]
        exact ⟨hy.toReading, fun start hs => ⟨hseq, by rw [← Option.some.inj hs]; simp⟩, nofun⟩
      · rw [if_neg hb] at hseq
        obtain ⟨j, v, hj, hrest, hv⟩ := ih hy hseq (by omega) (by omega)
        have hrun := hround.trans hrest
        rw [h.guardSteps_later (i := 2) hy] at hrun
        refine ⟨2 + j, v, by omega, hrun, ?_⟩
        rw [waitToken_other hlt hb]
        rw [List.length_append, List.length_singleton] at hv
        obtain ⟨hstands, hfound, htimeout⟩ := hv
        rw [List.append_assoc] at hstands hfound
        exact ⟨hstands, hfound, htimeout⟩

end Awaiting

/-- From where the wait is left `ReadBlock` ends with the sector, or with `Timeout` (R204 to R207). -/
theorem Awaited.readsAs {o : Option Nat × List Byte} (h : s.Awaited sent s.buffer o v) :
    s.ReadsAs (afterWait sent o) 518 v := by
  obtain ⟨start?, more⟩ := o
  obtain ⟨hstands, hfound, htimeout⟩ := h
  cases start? with
  | none =>
    obtain ⟨hq, hkind⟩ := htimeout rfl
    obtain ⟨tg, countdown, hrun, ha⟩ := leadsTo_disarm (next := .readAbortRestore) hq rfl rfl hstands.place
      fun t ht => by simp [lineStep, callOf, ht, readStep]
    have hx := (hstands.moved .readAbortRestore (w := v.w) rfl hstands.counter).withGuard tg countdown
    exact (hrun.readsAs (hx.readsAs_abort rfl hkind rfl ha)).mono (by decide)
  | some start =>
    obtain ⟨hq, hstart⟩ := hfound start rfl
    rw [afterWait, hstart]
    obtain ⟨tg, countdown, hrun, ha⟩ := leadsTo_disarm (next := .readData) hq rfl rfl hstands.place
      fun t ht => by simp [lineStep, callOf, ht, readStep]
    have hx := (hstands.moved .readData (w := v.w) rfl hstands.counter).withGuard tg countdown
    exact hrun.readsAs (hx.readsAs_data rfl rfl ha)

end State

end Sys2Proof.Machine
end

section
/-! PROOFS. The whole run of `ReadBlock` (O34, O35), and what it comes to: the sector (O36), the timeout (O37),
the line (O38), the buffer on an error (O39). -/

namespace Sys2Proof.Machine

namespace State

variable {s t u : State} {sent : List Byte} {n : Word}

/-! ## From the entry to the wait -/

namespace Reading

/-- The `Arm`, the wait and what follows it (R204 to R207). -/
theorem readsAs_arm (h : s.Reading sent s.buffer u) (hq : u.seq = .readArm) (ha : u.tg.armed = false)
    (hdelay : u.nextDelay = s.nextDelay) :
    s.ReadsAs (afterWait sent (s.waitToken (s.nextDelay + 1) 0 sent.length)) (s.nextDelay + 522) u := by
  let v : State := { u.arm Config.readDeadline with seq := .readWaitTest }
  have harm : u.LeadsTo 1 v :=
    leadsTo_line hq rfl rfl h.place ha (by simp [lineStep, callOf, hq, readStep, v])
  have hv : s.Awaiting 0 sent s.buffer v := by
    obtain ⟨hplace, hds, hbt, hp, hcount, htrace, hans, hbuffer, hreq⟩ := h
    refine ⟨⟨hplace, hds, hbt, hp, hcount, htrace, hans, hbuffer, hreq⟩, ?_⟩
    rw [← hdelay]; rfl
  obtain ⟨j, x, hj, hwait, hx⟩ := hv.leavesWait (s.nextDelay + 1) rfl (by omega) (by omega)
  have hle := guardSteps_le j v.tg v.env.countdown
  exact ((harm.trans hwait).readsAs hx.readsAs).mono (by omega)

/-- The command's transaction (R203). -/
theorem leadsTo_statusCheck (h : s.Reading [] s.buffer u) (hq : u.seq = .readCommand)
    (haddr : u.w.address = translate s.ds.addressingMode n) (ha : u.tg.armed = false) :
    ∃ v, u.LeadsTo 26 v ∧ s.Reading (s.sentRead n) s.buffer v ∧ v.seq = .readStatusCheck ∧
      v.w.kind = (s.reply 0 params.idxReadSingle).kind ∧ v.tg = u.tg ∧ v.nextDelay = u.nextDelay := by
  have hcall : u.callOf params = some (readSingleCommand params (translate s.ds.addressingMode n)) := by
    simp [callOf, hq, haddr]
  refine ⟨_, leadsTo_transaction_disarmed hcall h.place ha, h.transacted _, ?_, ?_, transacted_tg _ _,
    transacted_nextDelay _ _⟩
  · rw [transacted_seq, hq]; rfl
  · rw [transacted_kind]
    exact congrArg Reply.kind (reply_eq_of_answer h.answers _)

/-- The check of the command's answer and what follows it (R203 to R207). -/
theorem readsAs_statusCheck (h : s.Reading (s.sentRead n) s.buffer u) (hq : u.seq = .readStatusCheck)
    (hkind : u.w.kind = (s.reply 0 params.idxReadSingle).kind) (ha : u.tg.armed = false)
    (hdelay : u.nextDelay = s.nextDelay) (hinit : s.ds.initialized = true) :
    s.ReadsAs (s.expectReadBlock n) (s.nextDelay + 522) u := by
  have hcheck := computed_readStatusCheck params h.place hq
  rw [hkind] at hcheck
  have hdecide := leadsTo_computed (s := u) h.place (by rw [hq]; rfl)
  by_cases hok : (s.reply 0 params.idxReadSingle).kind = .ok
  · rw [if_pos hok] at hcheck
    rw [hcheck] at hdecide
    rw [expectReadBlock_ok hinit hok]
    have hend := (h.moved .readArm (w := u.w) rfl h.counter).readsAs_arm rfl ha hdelay
    exact ((hdecide rfl).readsAs hend).mono (by omega)
  · rw [if_neg hok] at hcheck
    have hab : (u.raise (s.reply 0 params.idxReadSingle).kind.reported).seq = .readAbortRestore := by
      rw [raise_seq, hq]; rfl
    rw [hcheck, hab] at hdecide
    rw [expectReadBlock_refused hinit hok]
    exact ((hdecide rfl).readsAs ((h.raised _).readsAs_abort hab rfl rfl ha)).mono (by omega)

end Reading

/-- The check passed, the address translated and the line taken (R201 to R203). -/
theorem leadsTo_selected (hinit : s.ds.initialized = true) (ha : s.tg.armed = false) :
    ∃ v, (s.begun (.opReadBlock n)).LeadsTo 1 v ∧ s.Reading [] s.buffer v ∧ v.seq = .readCommand ∧
      v.w.address = translate s.ds.addressingMode n ∧ v.tg = s.tg ∧ v.nextDelay = s.nextDelay := by
  let u := s.begun (.opReadBlock n)
  let x : State := { u with w.address := translate s.ds.addressingMode n, seq := .readSelect }
  let v : State := { x.selectOuter with seq := .readCommand }
  have hcheck : u.computed params = x := (computed_readCheck (u := u) params rfl rfl).trans (if_pos hinit)
  have hdecide : u.LeadsTo 0 x := hcheck ▸ leadsTo_computed rfl rfl (by rw [hcheck]; rfl)
  have hselect : x.LeadsTo 1 v := leadsTo_line rfl rfl rfl rfl ha rfl
  refine ⟨v, hdecide.trans hselect, ⟨rfl, rfl, rfl, rfl, rfl, ?_, fun i => ?_, rfl, rfl⟩, rfl, rfl, rfl, rfl⟩
  · exact (List.append_nil s.trace).symm
  · rw [List.length_nil, Nat.zero_add]; rfl

/-- The check not passed: the return of `NotInitialized`, nothing else done (R201, D11). -/
theorem leadsTo_notInitialized (hinit : s.ds.initialized = false) (ha : s.tg.armed = false) :
    (s.begun (.opReadBlock n)).LeadsTo 1
      ((s.begun (.opReadBlock n)).deliver (.err .notInitialized)) := by
  let u := s.begun (.opReadBlock n)
  have hcheck : u.computed params = u.raise .notInitialized :=
    (computed_readCheck (u := u) params rfl rfl).trans (if_neg (ne_true_of_eq_false hinit))
  have hdecide : u.LeadsTo 0 (u.raise .notInitialized) :=
    hcheck ▸ leadsTo_computed rfl rfl (by rw [hcheck]; rfl)
  exact hdecide.trans (leadsTo_line (p := .readFail) rfl rfl rfl rfl ha rfl)

/-- What the beginning of `ReadBlock` leads to at `Idle`, `exec` answers (R208). -/
theorem exec_readBlock {k : Nat} (hidle : s.seq = .idle) (he : s.bt.enabled = true)
    (hrun : (s.begun (.opReadBlock n)).LeadsTo k t) (hk : k ≤ s.nextDelay + 738) (ht : t.seq = .idle) :
    exec (.opReadBlock n) s = .next t := by
  have hrest : t.seq.resting = true := by rw [ht]; rfl
  obtain ⟨m, hm, hsteps⟩ := hrun.exists_run hrest
  exact whenEnabled_next.2 ⟨hidle, he,
    runFrom_eq (s := { s with host.blockNumber := n }) (hm.trans hk) hsteps hrest⟩

/-- `ReadBlock` ends as the second account says (R200 to R209). -/
theorem exists_blockRead (n : Word) (hidle : s.seq = .idle) (he : s.bt.enabled = true)
    (hg : s.GuardDiscipline) :
    ∃ t, exec (.opReadBlock n) s = .next t ∧ s.BlockRead (s.expectReadBlock n) t := by
  have ha : s.tg.armed = false := hg.disarmed (by rw [hidle]; rfl)
  cases hinit : s.ds.initialized with
  | false =>
    rw [expectReadBlock_uninitialized hinit]
    exact ⟨_, exec_readBlock hidle he (leadsTo_notInitialized hinit ha) (by omega) rfl, rfl, rfl, rfl, rfl, rfl,
      (List.append_nil s.trace).symm, ha, nofun, fun _ => rfl⟩
  | true =>
    obtain ⟨u, hselect, hu, hq, haddr, htg, hdelay⟩ := leadsTo_selected (n := n) hinit ha
    obtain ⟨v, hcall, hv, hq', hkind, htg', hdelay'⟩ := hu.leadsTo_statusCheck hq haddr (by rw [htg, ha])
    obtain ⟨t, hrun, ht⟩ := (hselect.trans hcall).readsAs
      (hv.readsAs_statusCheck hq' hkind (by rw [htg', htg, ha]) (hdelay'.trans hdelay) hinit)
    exact ⟨t, exec_readBlock hidle he hrun (by omega) ht.idle, ht⟩

/-- What `ReadBlock` answers is the return that the second account expects. -/
theorem blockRead_of_exec (hg : s.GuardDiscipline) (hexec : exec (.opReadBlock n) s = .next t) :
    s.BlockRead (s.expectReadBlock n) t := by
  obtain ⟨hidle, he, -⟩ := whenEnabled_next.1 hexec
  obtain ⟨t', hexec', ht⟩ := exists_blockRead n hidle he hg
  obtain rfl := Host.Outcome.next.inj (hexec'.symm.trans hexec)
  exact ht

/-- A wait left without a token is `Timeout` (R204). -/
theorem afterWait_of_none {o : Option Nat × List Byte} (h : o.1 = none) :
    afterWait sent o = ⟨some .timeout, sent ++ o.2, 0⟩ := by
  obtain ⟨start?, more⟩ := o
  subst h
  rfl

namespace BlockRead

variable {e : ReadExpected} (h : s.BlockRead e t)
include h

theorem length_trace : t.trace.length = s.trace.length + e.sent.length := by
  rw [h.events, List.length_append, length_exchange]

/-- An error returned is a failure expected. -/
theorem failure_of_err {k : ErrorKind} (hk : t.host.result = .err k) : e.failure ≠ none := by
  intro hnone
  have hresult := h.result
  rw [hk, hnone] at hresult
  cases hresult

end BlockRead

/-! ## The wait over given answers -/

/-- The token at the `m`-th byte of a wait that the delay covers is found there (R204). -/
theorem waitToken_of_token (m : Nat) {rounds steps pos : Nat} (hrounds : m < rounds)
    (hother : ∀ j, j < m → s.answer (pos + j) ≠ params.startToken)
    (htoken : s.answer (pos + m) = params.startToken) (hd : steps + 2 * m < s.nextDelay) :
    s.waitToken rounds steps pos = (some (pos + m + 1), List.replicate (m + 1) params.fill) := by
  induction m generalizing rounds steps pos with
  | zero =>
    obtain ⟨rounds, rfl⟩ := Nat.exists_eq_succ_of_ne_zero (Nat.ne_of_gt hrounds)
    exact waitToken_token hd htoken
  | succ m ih =>
    obtain ⟨rounds, rfl⟩ := Nat.exists_eq_succ_of_ne_zero (Nat.ne_of_gt (Nat.zero_lt_of_lt hrounds))
    have hfirst : s.answer pos ≠ params.startToken := hother 0 (by omega)
    have hlater := ih (rounds := rounds) (steps := steps + 2) (pos := pos + 1) (by omega)
      (fun j hj => by rw [Nat.add_assoc, Nat.add_comm 1]; exact hother (j + 1) (by omega))
      (by rw [Nat.add_assoc, Nat.add_comm 1]; exact htoken) (by omega)
    rw [waitToken_other (by omega) hfirst, hlater, Nat.add_assoc pos 1, Nat.add_comm 1]
    rfl

/-- Without a token among the bytes that the delay covers, none is found (R204). -/
theorem waitToken_of_no_token (rounds : Nat) {steps pos : Nat}
    (hother : ∀ j, steps + 2 * j < s.nextDelay → s.answer (pos + j) ≠ params.startToken) :
    (s.waitToken rounds steps pos).1 = none := by
  induction rounds generalizing steps pos with
  | zero => rfl
  | succ rounds ih =>
    by_cases hd : s.nextDelay ≤ steps
    · rw [waitToken_expired hd]
    · have hfirst : s.answer pos ≠ params.startToken := hother 0 (by omega)
      rw [waitToken_other (Nat.not_le.1 hd) hfirst]
      exact ih fun j hj => by rw [Nat.add_assoc, Nat.add_comm 1]; exact hother (j + 1) (by omega)

end State

/-- Settles O34: the check raises the kind, and the abort has nothing to release. -/
theorem readBlockBeforeInitialize : Obligations.ReadBlockBeforeInitialize := by
  intro n s hidle he hinit hg
  have ha : s.tg.armed = false := hg.disarmed (by rw [hidle]; rfl)
  exact ⟨_, State.exec_readBlock hidle he (State.leadsTo_notInitialized hinit ha) (by omega) rfl, rfl, rfl, rfl,
    rfl, rfl, rfl, rfl, rfl⟩

/-- Settles O35: the run is taken line by line against the second account. -/
theorem readBlockFollowsItsPseudocode : Obligations.ReadBlockFollowsItsPseudocode := by
  intro n s hidle he hg
  obtain ⟨t, hexec, ht⟩ := State.exists_blockRead n hidle he hg
  obtain ⟨hseq, hresult, hreq, hds, hbt, htrace, ha, hstored, hkept⟩ := ht
  refine ⟨t, hexec, hseq, ⟨?_, htrace, hstored, hkept⟩, hds, hbt, ha, hreq⟩
  rw [hresult]
  cases (s.expectReadBlock n).failure <;> rfl

/-- Settles O36: the second account finds the token and stores what follows it. -/
theorem readBlockDeliversTheSector : Obligations.ReadBlockDeliversTheSector := by
  intro n s m hidle hinit he hg r hok hother htoken hd
  obtain ⟨t, hexec, ht⟩ := State.exists_blockRead n hidle he hg
  have hwait := State.waitToken_of_token m (rounds := s.nextDelay + 1) (steps := 0)
    (pos := (s.reply 0 params.idxReadSingle).transfers) (by omega) hother htoken (by omega)
  rw [State.expectReadBlock_ok hinit hok, State.length_sentRead, hwait] at ht
  have hlen := ht.length_trace
  obtain ⟨-, hresult, -, hds, hbt, -, -, hstored, -⟩ := ht
  have hread := hstored rfl
  refine ⟨t, hexec, hresult, fun a ha => ?_, fun a ha => ?_, ?_, hds, hbt⟩
  · rw [hread, if_pos ha]; rfl
  · rw [hread, if_neg (Nat.not_lt.2 ha)]
  · rw [hlen]
    simp only [State.afterWait, List.length_append, List.length_replicate, State.length_sentRead]
    have hr : (s.reply 0 params.idxReadSingle).transfers = r.transfers := rfl
    omega

/-- Settles O37: the second account finds no token. -/
theorem readBlockTimesOutWithoutAToken : Obligations.ReadBlockTimesOutWithoutAToken := by
  intro n s hidle hinit he hg r hok hother
  obtain ⟨t, hexec, ht⟩ := State.exists_blockRead n hidle he hg
  have hwait := State.waitToken_of_no_token (s := s) (s.nextDelay + 1) (steps := 0)
    (pos := (s.reply 0 params.idxReadSingle).transfers) fun j hj => hother j (by omega)
  rw [State.expectReadBlock_ok hinit hok, State.length_sentRead, State.afterWait_of_none hwait] at ht
  obtain ⟨-, hresult, -, hds, hbt, -, ha, -, hkept⟩ := ht
  exact ⟨t, hexec, hresult, hkept nofun, hbt, hds, ha⟩

/-- Settles O38: the second account's bytes are exchanged with the line asserted. -/
theorem readBlockHoldsAndRestoresTheLine : Obligations.ReadBlockHoldsAndRestoresTheLine := by
  intro n s t hg hexec
  have ht := State.blockRead_of_exec hg hexec
  exact ⟨by rw [ht.transport], _, ht.events, fun _ => cs_of_mem_exchange⟩

/-- Settles O39: an error is a failure of the second account, which keeps the buffer. -/
theorem readBlockErrorKeepsTheBuffer : Obligations.ReadBlockErrorKeepsTheBuffer := by
  intro n s t hg hexec
  have ht := State.blockRead_of_exec hg hexec
  exact ⟨fun _ hk => ht.kept (ht.failure_of_err hk), ht.driver, ht.transport, ht.disarmed⟩

end Sys2Proof.Machine
end

section
/-! PROOFS. The data phase and the trailer of `ReadBlock` step by step (O40, O41), wherever the place inside a
transaction stands. -/

namespace Sys2Proof.Machine

/-- The next answer is the same once the computations are made. -/
theorem computed_cardByte (s : State) : (s.computed params).cardByte = s.answer 0 := by
  rw [← State.answer_zero, State.answer, State.answer, State.computed_env]

/-- A step of the data phase (R205). -/
theorem busStep_data {s : State} (hq : s.seq = .readData) (ha : s.tg.armed = false) :
    busStep params s = (s.computed params).dataXfer params := by
  obtain ⟨hstep, hline⟩ := busStep_line params hq rfl rfl ha
  simp [hstep, lineStep, State.callOf, hline, readStep]

/-- A step of the trailer (R206). -/
theorem busStep_trailer {s : State} (hq : s.seq = .readTrailer) (ha : s.tg.armed = false) :
    busStep params s = (s.computed params).clockFill params params.trailerLen .readRelease := by
  obtain ⟨hstep, hline⟩ := busStep_line params hq rfl rfl ha
  simp [hstep, lineStep, State.callOf, hline, readStep]

/-- Settles O40: the step is `dataXfer`, read field by field. -/
theorem dataBytesAreStoredAsReceived : Obligations.DataBytesAreStoredAsReceived := by
  intro s hq ha hlt
  have hlen : params.sectorLen = 512 := rfl
  obtain ⟨-, hline⟩ := busStep_line params hq rfl rfl ha
  rw [busStep_data hq ha]
  refine ⟨fun a => ?_, ?_, fun hmore => ⟨?_, ?_⟩, fun hlast => ⟨?_, ?_⟩⟩
  · rw [State.dataXfer_buffer, computed_cardByte, State.computed_byteCount, State.memWrite_buffer _ _ _ hlt,
      State.computed_buffer, Memory.read_write]
  · rw [State.dataXfer_trace, State.xfer_trace, computed_cardByte, State.computed_trace, State.computed_bt]
    rfl
  · rw [State.dataXfer_seq, State.computed_byteCount, if_pos (by omega), hline]
  · rw [State.dataXfer_w, State.computed_byteCount, if_pos (by omega)]
    exact toNat_succ rfl (by omega)
  · rw [State.dataXfer_seq, State.computed_byteCount, if_neg (by omega)]
  · rw [State.dataXfer_w, State.computed_byteCount, if_neg (by omega)]

/-- Settles O41: both steps are `clockFill`, the first counting on and the second going to the release. -/
theorem trailerIsDiscarded : Obligations.TrailerIsDiscarded := by
  intro s hq ha h0
  obtain ⟨-, hline⟩ := busStep_line params hq rfl rfl ha
  have hfirst := busStep_trailer hq ha
  have hq' : (busStep params s).seq = .readTrailer := by
    rw [hfirst, State.clockFill_seq, State.computed_byteCount, h0]
    exact hline
  have ha' : (busStep params s).tg.armed = false := by
    rw [hfirst, State.clockFill_tg, State.computed_tg, ha]
  have hcount : (busStep params s).w.byteCount = 1#10 := by
    rw [hfirst, State.clockFill_w, State.computed_byteCount, h0]
    rfl
  have hanswer : (busStep params s).answer 0 = s.answer 1 := by
    have henv : (busStep params s).env = (s.xfer params.fill).env := by
      rw [hfirst, State.clockFill_env, State.xfer, State.xfer, State.computed_env]
    rw [← State.answer_xfer s params.fill, State.answer, State.answer, henv]
  rw [busStep_trailer hq' ha']
  refine ⟨?_, ?_, ?_⟩
  · rw [State.clockFill_seq, State.computed_byteCount, hcount]
    rfl
  · rw [State.clockFill_buffer, State.computed_buffer, hfirst, State.clockFill_buffer, State.computed_buffer]
  · rw [State.clockFill_trace, State.xfer_trace, computed_cardByte, hanswer, State.computed_trace,
      State.computed_bt, hfirst, State.clockFill_trace, State.xfer_trace, computed_cardByte,
      State.clockFill_bt, State.computed_trace, State.computed_bt, List.append_assoc]
    rfl

end Sys2Proof.Machine
end

section
/-! PROOFS. The status query and the shutdown: the whole run of `IsReady` with the guard in whatever state, and what
it reports (O42), drops (O43) and does not look at (O44); the two steps of `Shutdown` (O45). -/

namespace Sys2Proof.Machine

namespace State

variable {s t : State}

/-! ## The run of `IsReady` -/

/-- The return of the `IsReady` called in `s` (R220): one transaction and its report, the guard as their steps
leave it (R156). -/
def readyReturned (s : State) : State :=
  let u := (s.startAt .readyCommand Work.reset).transacted (readOcrCommand params)
  let guard := guardAfter ((s.reply 0 params.idxReadOcr).steps + 1) s.tg s.env.countdown
  (u.withGuard guard.1 guard.2).deliver (.ready (u.readiness params))

theorem sequencerStep_readyReport (c : Params) (hq : s.seq = .readyReport) (hc : s.cmdSeq = .select) :
    sequencerStep c s = s.deliver (.ready (s.readiness c)) := by
  rw [sequencerStep_line c (by rw [hq]; rfl) (by rw [hq]; rfl) hc]
  simp [lineStep, callOf, hq, queryStep]

/-- The transaction and then the report, the handler perhaps taking its step in either. -/
theorem leadsTo_readyReturned (s : State) :
    (s.startAt .readyCommand Work.reset).LeadsTo 28 s.readyReturned := by
  let u := s.startAt .readyCommand Work.reset
  let r := s.reply 0 params.idxReadOcr
  let g := guardAfter r.steps s.tg s.env.countdown
  let v := (u.transacted (readOcrCommand params)).withGuard g.1 g.2
  have hcall : u.LeadsTo (guardSteps r.steps s.tg s.env.countdown) v :=
    leadsTo_transaction (s := u) (k := readOcrCommand params) rfl rfl
  have hreport : v.LeadsTo (guardSteps 1 g.1 g.2) s.readyReturned := by
    have hstep := leadsTo_sequencerStep (u := v) rfl
    rw [sequencerStep_readyReport params rfl rfl] at hstep
    rw [readyReturned, guardAfter_add]
    exact hstep
  refine (hcall.trans hreport).mono ?_
  rw [← guardSteps_add]
  have hsteps : r.steps ≤ 26 := steps_reply_le s 0 _
  have hle := guardSteps_le (r.steps + 1) s.tg s.env.countdown
  omega

theorem runFrom_readyCommand (s : State) : s.runFrom params .readyCommand Work.reset = s.readyReturned := by
  obtain ⟨n, hn, hrun⟩ := s.leadsTo_readyReturned.exists_run rfl
  have hfuel := s.le_fuel
  exact runFrom_eq (by omega) hrun rfl

/-- Everything `IsReady` can answer, the guard in whatever state. -/
theorem exec_isReady_next : exec .opIsReady s = .next t ↔
    s.seq = .idle ∧ s.bt.enabled = true ∧ s.readyReturned = t := by
  rw [← runFrom_readyCommand]
  exact whenEnabled_next

/-! ## What it reports and leaves -/

/-- The payload is missing after a status that is not benign exactly (R123). -/
theorem payload_reply_eq_none_iff {index : BitVec 6} (h : payloadLen params index = 4) (s : State) (n : Nat) :
    (s.reply n index).payload = none ↔ (s.reply n index).kind.benign = false := by
  rw [← payload_reply_isSome h, Option.isSome_eq_false_iff, Option.isNone_iff_eq_none]

/-- The readiness reported is bit 31 of the payload, and not ready without one (R220, R221, D9). -/
theorem readiness_transacted (s : State) : (s.transacted (readOcrCommand params)).readiness params =
    (s.reply 0 params.idxReadOcr).payload.any fun v => v.getLsbD 31 := by
  have hread := payload_reply_isSome (index := params.idxReadOcr) rfl s 0
  have hready : (s.transacted (readOcrCommand params)).readiness params =
      ((s.reply 0 params.idxReadOcr).kind.benign &&
        ((s.reply 0 params.idxReadOcr).payload.getD 0#32).getLsbD 31) := rfl
  rw [hready, ← hread]
  cases (s.reply 0 params.idxReadOcr).payload <;> rfl

section Returned

variable (s : State)

@[simp] theorem withGuard_bt (tg : TimeoutGuard) (n : Nat) : (s.withGuard tg n).bt = s.bt := rfl
@[simp] theorem withGuard_host (tg : TimeoutGuard) (n : Nat) : (s.withGuard tg n).host = s.host := rfl
@[simp] theorem withGuard_buffer (tg : TimeoutGuard) (n : Nat) : (s.withGuard tg n).buffer = s.buffer := rfl

@[simp] theorem readyReturned_seq : s.readyReturned.seq = .idle := rfl
@[simp] theorem readyReturned_ds : s.readyReturned.ds = s.ds := by simp [readyReturned]
@[simp] theorem readyReturned_bt : s.readyReturned.bt = s.bt := by simp [readyReturned]
@[simp] theorem readyReturned_buffer : s.readyReturned.buffer = s.buffer := by simp [readyReturned]

theorem readyReturned_trace : s.readyReturned.trace = s.trace ++
    s.exchange true s.bt.divider 0
      (commandBytes (readOcrCommand params) (s.reply 0 params.idxReadOcr)) :=
  transacted_trace (readOcrCommand params) (s.startAt .readyCommand Work.reset)

theorem readyReturned_host : s.readyReturned.host =
    { s.host with result := .ready ((s.reply 0 params.idxReadOcr).payload.any fun v => v.getLsbD 31) } := by
  simp [readyReturned, readiness_transacted]

theorem readyReturned_tg_of_disarmed (ha : s.tg.armed = false) : s.readyReturned.tg = s.tg := by
  simp [readyReturned, guardAfter, ha]

end Returned

end State

/-- Settles O42: the run is one transaction and its report, and with the guard not armed nothing else moves. -/
theorem isReadyReportsTheBusyBit : Obligations.IsReadyReportsTheBusyBit := by
  intro s hidle he hg
  have ha : s.tg.armed = false := hg.disarmed (by rw [hidle]; rfl)
  refine ⟨_, State.exec_isReady_next.2 ⟨hidle, he, rfl⟩, s.readyReturned_seq,
    ⟨?_, State.payload_reply_eq_none_iff rfl s 0, s.readyReturned_trace⟩, s.readyReturned_bt,
    s.readyReturned_ds, s.readyReturned_tg_of_disarmed ha, s.readyReturned_buffer,
    by rw [s.readyReturned_host], by rw [s.readyReturned_host]⟩
  rw [s.readyReturned_host]
  change HostResult.ready ((s.reply 0 58#6).payload.any fun v => v.getLsbD 31) = _
  cases (s.reply 0 58#6).payload <;> rfl

/-- Settles O43: without a benign status there is no payload (O42), and the transport is as it was. -/
theorem isReadyFlattensFailuresAndKeepsTheLine : Obligations.IsReadyFlattensFailuresAndKeepsTheLine := by
  intro s t hg hexec
  obtain ⟨hidle, he, -⟩ := State.exec_isReady_next.1 hexec
  obtain ⟨t', hexec', -, ⟨hresult, hpayload, -⟩, hbt, -⟩ := isReadyReportsTheBusyBit s hidle he hg
  obtain rfl := Host.Outcome.next.inj (hexec'.symm.trans hexec)
  refine ⟨fun hkind => ?_, by rw [hbt]⟩
  rw [hresult, hpayload.2 hkind]

/-! ## Another `DriverState` -/

namespace State

variable (s : State) (ds : DriverState)

/-- Transfers do not look at `DriverState`. -/
theorem sendAll_withDriver (l : List Byte) :
    State.sendAll { s with ds := ds } l = { s.sendAll l with ds := ds } := by
  induction l generalizing s with
  | nil => rfl
  | cons b l ih => exact ih (s.xfer b)

/-- A transaction does not look at `DriverState`. -/
theorem transacted_withDriver (k : Command) :
    State.transacted k { s with ds := ds } = { s.transacted k with ds := ds } := by
  have hsent := sendAll_withDriver { s with bt.csAsserted := true } ds
    (commandBytes k (s.reply 0 k.index))
  exact congrArg (fun u : State => { u with
    bt := s.bt
    seq := s.seq.afterCall
    cmdSeq := .select
    w := (s.transacted k).w }) hsent

theorem readyReturned_withDriver :
    State.readyReturned { s with ds := ds } = { s.readyReturned with ds := ds } := by
  have hcall := transacted_withDriver (s.startAt .readyCommand Work.reset) ds (readOcrCommand params)
  let g := guardAfter ((s.reply 0 params.idxReadOcr).steps + 1) s.tg s.env.countdown
  exact congrArg (fun u : State => (u.withGuard g.1 g.2).deliver (.ready (u.readiness params))) hcall

end State

/-- Settles O44: neither the transaction nor the report looks at `DriverState`, whatever the guard does. -/
theorem isReadyIgnoresDriverState : Obligations.IsReadyIgnoresDriverState := by
  intro s t ds hexec
  obtain ⟨hidle, he, rfl⟩ := State.exec_isReady_next.1 hexec
  exact State.exec_isReady_next.2 ⟨hidle, he, s.readyReturned_withDriver ds⟩

/-! ## `Shutdown` -/

/-- The two steps of `Shutdown`, the guard not armed: the enable cleared, and the return (R224, D21). -/
theorem runFrom_shutDisable {s : State} (ha : s.tg.armed = false) :
    s.runFrom params .shutDisable Work.reset = s.disable.deliver .none := by
  let u := s.startAt .shutDisable Work.reset
  have hdisable : u.LeadsTo 1 { u.disable with seq := .shutReturn } :=
    State.leadsTo_line rfl rfl rfl rfl ha rfl
  have hreturn : State.LeadsTo { u.disable with seq := .shutReturn } 1 (s.disable.deliver .none) :=
    State.leadsTo_line rfl rfl rfl rfl ha rfl
  obtain ⟨n, hn, hrun⟩ := (hdisable.trans hreturn).exists_run rfl
  have hfuel := s.le_fuel
  exact runFrom_eq (by omega) hrun rfl

/-- Settles O45: the return is `s` but for the enable, the working registers and the result. -/
theorem shutdownDisablesTheTransport : Obligations.ShutdownDisablesTheTransport := by
  intro s hidle hg
  have ha : s.tg.armed = false := hg.disarmed (by rw [hidle]; rfl)
  exact ⟨_, whenIdle_next.2 ⟨hidle, runFrom_shutDisable ha⟩, rfl, rfl, rfl, rfl, rfl, rfl, rfl, rfl, rfl⟩

end Sys2Proof.Machine
end

section
/-! PROOFS. That no step of the machine faults (O60), and that every operation returns (O51). -/

namespace Sys2Proof.Machine

variable {s t : State}

/-! ## No fault -/

theorem whenResting_ne_fault (s run : State) (f : Fault) : s.whenResting run ≠ .fault f := by
  unfold State.whenResting
  split <;> exact nofun

theorem callAlone_ne_fault (s run : State) (f : Fault) : s.callAlone run ≠ .fault f := by
  unfold State.callAlone
  split
  · exact nofun
  · exact whenResting_ne_fault s run f

theorem whenIdle_ne_fault (s run : State) (f : Fault) : s.whenIdle run ≠ .fault f := by
  unfold State.whenIdle
  split <;> exact nofun

theorem whenEnabled_ne_fault (s run : State) (f : Fault) : s.whenEnabled run ≠ .fault f := by
  unfold State.whenEnabled
  split
  · exact nofun
  · exact whenIdle_ne_fault s run f

/-- An instruction is run or refused. -/
theorem exec_ne_fault (i : Instr) (s : State) (f : Fault) : exec i s ≠ .fault f := by
  cases i with
  | cmdGeneric index arg check => exact whenResting_ne_fault s _ f
  | opInitialize =>
    change execInitialize s ≠ _
    unfold execInitialize
    split
    · exact nofun
    · exact whenIdle_ne_fault s _ f
  | opReadBlock blockNumber => exact whenEnabled_ne_fault s _ f
  | opIsReady => exact whenEnabled_ne_fault s _ f
  | opShutdown => exact whenIdle_ne_fault s _ f
  | _ => exact callAlone_ne_fault s _ f

theorem hostStep_ne_fault (s : State) (f : Fault) : hostStep s ≠ .fault f := by
  unfold hostStep
  split
  case h_3 => split <;> exact nofun
  all_goals exact nofun

theorem idleStep_ne_fault (s : State) (f : Fault) : idleStep exec s ≠ .fault f := by
  unfold idleStep
  split
  · split
    · exact nofun
    · exact hostStep_ne_fault _ f
  · exact exec_ne_fault _ _ f

theorem fetchStep_ne_fault (w : Frame) (s : State) (f : Fault) : fetchStep exec w s ≠ .fault f := by
  unfold fetchStep
  split
  · exact exec_ne_fault _ _ f
  · exact nofun

/-- The one fault needs a `byte_count` that names no position of the buffer (R52). -/
theorem progressStep_ne_fault (h : s.w.byteCount.toNat < bufferLen) (f : Fault) :
    progressStep s ≠ .fault f := by
  have hpos : ¬ (s.seq = .readData ∧ ¬ s.w.byteCount.toNat < bufferLen) := fun hfault => hfault.2 h
  unfold progressStep
  rw [if_neg hpos]
  repeat' split
  all_goals exact nofun

/-- Settles O60: the one fault is that of a step inside an operation. -/
theorem stepNeverFaults : Obligations.StepNeverFaults := by
  intro s f hcounters
  obtain ⟨-, -, hbyte⟩ := hcounters
  unfold step
  split
  · exact idleStep_ne_fault s f
  · exact fetchStep_ne_fault _ s f
  · exact progressStep_ne_fault hbyte f

/-! ## Every operation returns -/

/-- An instruction is run from a rest only (R33, R148). -/
theorem resting_of_exec {i : Instr} (h : exec i s = .next t) : s.seq.resting = true := by
  have idle_rests : s.seq = .idle → s.seq.resting = true := fun hidle => by rw [hidle]; rfl
  cases i with
  | cmdGeneric index arg check => exact (whenResting_next.1 h).1
  | opInitialize => exact idle_rests (execInitialize_next.1 h).1
  | opReadBlock blockNumber => exact idle_rests (whenEnabled_next.1 h).1
  | opIsReady => exact idle_rests (whenEnabled_next.1 h).1
  | opShutdown => exact idle_rests (whenIdle_next.1 h).1
  | _ => exact (callAlone_next.1 h).1

/-- The return of a command called on its own (O24). -/
theorem idle_of_sentCommand {i : Instr} {k : Command} (hsent : sentCommand i = some k)
    (hg : s.GuardDiscipline) (h : exec i s = .next t) : t.seq = .idle := by
  obtain ⟨p, w, -, hcall⟩ := exec_of_sentCommand hsent
  obtain ⟨hr, he, -⟩ := callAlone_next.1 ((hcall s).symm.trans h)
  obtain ⟨t', h', hseq, -⟩ := commandTransactionCompletes i k s hsent hr he hg
  obtain rfl := Host.Outcome.next.inj (h'.symm.trans h)
  exact hseq

/-- The return of the pair ACMD41 called on its own (O25). -/
theorem idle_of_acmd41 {hcs : Bool} (hg : s.GuardDiscipline) (h : exec (.acmd41 hcs) s = .next t) :
    t.seq = .idle := by
  obtain ⟨hr, he, -⟩ := callAlone_next.1 h
  obtain ⟨t', h', hseq, -⟩ := initializationPairCompletes hcs s hr he hg
  obtain rfl := Host.Outcome.next.inj (h'.symm.trans h)
  exact hseq

/-- Every run that `exec` makes ends at `Idle` (R251). -/
theorem idle_of_exec {i : Instr} (hg : s.GuardDiscipline) (h : exec i s = .next t) : t.seq = .idle := by
  cases i with
  | acmd41 hcs => exact idle_of_acmd41 hg h
  | cmdGeneric index arg check => rw [← (whenResting_next.1 h).2]; rfl
  | opInitialize => exact (State.initialized_of_exec hg h).idle
  | opReadBlock blockNumber => exact (State.blockRead_of_exec hg h).idle
  | opIsReady =>
    obtain ⟨-, -, hrun⟩ := State.exec_isReady_next.1 h
    rw [← hrun, s.readyReturned_seq]
  | opShutdown =>
    obtain ⟨-, hrun⟩ := whenIdle_next.1 h
    rw [← hrun, runFrom_shutDisable (hg.disarmed_of_resting (resting_of_exec h))]
    rfl
  | _ => exact idle_of_sentCommand rfl hg h

/-- What `exec` answers keeps the chip-select discipline, whatever stood before: an instruction begins outside
a transaction. -/
theorem lineDiscipline_of_exec {i : Instr} (h : exec i s = .next t) : t.LineDiscipline := by
  obtain ⟨hcs, m, hrun⟩ := exec_next_run h
  rw [← hrun]
  exact runSteps_preserves params (P := State.LineDiscipline)
    (fun _ => lineDiscipline_keptByParts.busStep) m (State.lineDiscipline_begun i hcs)

/-- Settles O51: at `Idle` the chip-select discipline leaves no place inside a transaction, and the guard's
discipline no armed guard. -/
theorem everyOperationReturns : Obligations.EveryOperationReturns := by
  intro i s t hg h
  have hidle : t.seq = .idle := idle_of_exec hg h
  have hguard : t.GuardDiscipline := hg.exec (resting_of_exec h) h
  exact ⟨hidle, (lineDiscipline_of_exec h).place_of_not_isCall (by rw [hidle]; rfl),
    hguard.disarmed_of_resting (by rw [hidle]; rfl)⟩

end Sys2Proof.Machine
end

section
/-! PROOFS. The kinds a failed operation can return (O46), read from the second accounts. -/

namespace Sys2Proof.Machine

variable {s t : State}

/-- The kinds that no status byte decodes to and only the driver raises (R121, R240). -/
def ErrorKind.driverRaised : ErrorKind → Bool
  | .generic => true
  | .timeout => true
  | .invalidVoltageRange => true
  | .notInitialized => true
  | _ => false

theorem decodeStatus_driverRaised (b : Byte) : (decodeStatus b).driverRaised = false := by
  unfold decodeStatus
  repeat' split
  all_goals rfl

/-- A transaction returns the kind of its status byte, and without one `NoResponse` (R126). -/
theorem State.reply_kind_driverRaised (s : State) (n : Nat) (index : BitVec 6) :
    (s.reply n index).kind.driverRaised = false := by
  dsimp only [State.reply]
  split
  · rfl
  · exact decodeStatus_driverRaised _

theorem State.reply_kind_ne (s : State) (n : Nat) (index : BitVec 6) {k : ErrorKind}
    (hk : k.driverRaised = true) : (s.reply n index).kind ≠ k := by
  rintro rfl
  rw [s.reply_kind_driverRaised] at hk
  cases hk

theorem ErrorKind.reported_benign (k : ErrorKind) : k.reported.benign = false := by
  cases k <;> rfl

/-- What is reported of a status is its own kind or `Generic` (R242, D10). -/
theorem ErrorKind.reported_ne {k k' : ErrorKind} (h : k ≠ k') (hgeneric : k' ≠ .generic) :
    k.reported ≠ k' := by
  unfold ErrorKind.reported
  split
  · exact hgeneric.symm
  · exact h

theorem ErrorKind.not_benign_of_ne {k : ErrorKind} (hok : k ≠ .ok) (hidle : k ≠ .idle) :
    k.benign = false := by
  cases k
  case ok => exact absurd rfl hok
  case idle => exact absurd rfl hidle
  all_goals rfl

/-- The kinds `Initialize` can fail with (R242). -/
def ErrorKind.FromInitialize (k : ErrorKind) : Prop := k.benign = false ∧ k ≠ .notInitialized

/-- The kinds `ReadBlock` can fail with (R210, R242). -/
def ErrorKind.FromReadBlock (k : ErrorKind) : Prop := k.benign = false ∧ k ≠ .invalidVoltageRange

namespace State

theorem fromInitialize_reported (s : State) (n : Nat) (index : BitVec 6) :
    (s.reply n index).kind.reported.FromInitialize :=
  ⟨ErrorKind.reported_benign _, ErrorKind.reported_ne (s.reply_kind_ne n index rfl) nofun⟩

theorem fromInitialize_reply {n : Nat} {index : BitVec 6} (h : (s.reply n index).kind.benign = false) :
    (s.reply n index).kind.FromInitialize :=
  ⟨h, s.reply_kind_ne n index rfl⟩

/-- The negotiation fails with `Timeout` or with a status that is not benign (R175). -/
theorem fromInitialize_negotiate (s : State) (hcs : Bool) (rounds steps pos : Nat) :
    ∀ k ∈ (s.negotiate hcs rounds steps pos).1, k.FromInitialize := by
  have htimeout : ErrorKind.FromInitialize .timeout := ⟨rfl, nofun⟩
  induction rounds generalizing steps pos with
  | zero => rintro k ⟨⟩; exact htimeout
  | succ rounds ih =>
    by_cases hd : s.nextDelay ≤ steps
    · rw [negotiate_expired hd]
      rintro k ⟨⟩
      exact htimeout
    · cases hb : (s.reply pos params.idxAppPrefix).kind.benign with
      | false =>
        rw [negotiate_refused (Nat.not_le.1 hd) hb]
        rintro k ⟨⟩
        exact fromInitialize_reply hb
      | true =>
        rw [negotiate_answered (Nat.not_le.1 hd) hb]
        dsimp only
        split
        · exact nofun
        · next hok =>
          split
          · exact ih _ _
          · next hidle =>
            rintro k ⟨⟩
            exact fromInitialize_reply (ErrorKind.not_benign_of_ne hok hidle)

theorem fromInitialize_expectBlocklen (s : State) (pos : Nat) (sent : List Byte) :
    ∀ k ∈ (s.expectBlocklen pos sent).failure, k.FromInitialize := by
  by_cases hok : (s.reply pos params.idxSetBlocklen).kind = .ok
  · rw [expectBlocklen_of_ok hok]
    exact nofun
  · rw [expectBlocklen_of_ne hok]
    rintro k ⟨⟩
    exact s.fromInitialize_reported pos _

/-- Steps 4 to 6 fail as the negotiation, the operating-conditions read or the block length does. -/
theorem fromInitialize_expectNegotiation (s : State) (version : CardVersion) (mode : AddrMode) (pos : Nat)
    (sent : List Byte) : ∀ k ∈ (s.expectNegotiation version mode pos sent).failure, k.FromInitialize := by
  rcases hn : s.negotiate (version = .v2) (s.nextDelay + 1) 0 pos with ⟨failure, pos', more⟩
  cases failure with
  | some k =>
    rw [expectNegotiation_of_failure hn]
    have hk := s.fromInitialize_negotiate (version = .v2) (s.nextDelay + 1) 0 pos
    rwa [hn] at hk
  | none =>
    cases version with
    | v1 =>
      rw [expectNegotiation_v1 hn]
      exact s.fromInitialize_expectBlocklen _ _
    | v2 =>
      cases hr : (s.reply pos' params.idxReadOcr).payload with
      | none =>
        rw [expectNegotiation_v2_none hn hr]
        rintro k ⟨⟩
        exact fromInitialize_reply ((payload_reply_eq_none_iff rfl s pos').1 hr)
      | some ocr =>
        cases hmode : ocrMode params ocr with
        | block => rw [expectNegotiation_v2_block hn hr hmode]; exact nofun
        | byte =>
          rw [expectNegotiation_v2_byte hn hr hmode]
          exact s.fromInitialize_expectBlocklen _ _

/-- Every way `Initialize` fails, step by step (R173 to R179). -/
theorem fromInitialize_expectInitialize (s : State) :
    ∀ k ∈ s.expectInitialize.failure, k.FromInitialize := by
  by_cases h0 : (s.reply 12 params.idxReset).kind = .idle
  · let r := s.reply (12 + (s.reply 12 params.idxReset).transfers) params.idxIfCond
    by_cases hidle : r.kind = .idle
    · by_cases hecho : r.payload = some params.ifCondPattern
      · rw [expectInitialize_v2 h0 (r := r) rfl hidle hecho]
        exact s.fromInitialize_expectNegotiation _ _ _ _
      · rw [expectInitialize_mismatch h0 (r := r) rfl hidle hecho]
        rintro k ⟨⟩
        exact ⟨rfl, nofun⟩
    · by_cases hv1 : r.kind = .illegalCommand ∨ r.kind = .noResponse
      · rw [expectInitialize_v1 h0 (r := r) rfl hv1]
        exact s.fromInitialize_expectNegotiation _ _ _ _
      · obtain ⟨hill, hno⟩ := not_or.1 hv1
        rw [expectInitialize_refused h0 (r := r) rfl hidle hill hno]
        rintro k ⟨⟩
        exact s.fromInitialize_reported _ _
  · rw [expectInitialize_of_ne h0]
    rintro k ⟨⟩
    exact s.fromInitialize_reported _ _

/-- Every way `ReadBlock` fails (R201, R203, R204). -/
theorem fromReadBlock_expectReadBlock (s : State) (n : Word) :
    ∀ k ∈ (s.expectReadBlock n).failure, k.FromReadBlock := by
  cases hinit : s.ds.initialized with
  | false =>
    rw [expectReadBlock_uninitialized hinit]
    rintro k ⟨⟩
    exact ⟨rfl, nofun⟩
  | true =>
    by_cases hok : (s.reply 0 params.idxReadSingle).kind = .ok
    · rw [expectReadBlock_ok hinit hok]
      obtain ⟨_ | start, more⟩ := s.waitToken (s.nextDelay + 1) 0 (s.sentRead n).length
      · rintro k ⟨⟩
        exact ⟨rfl, nofun⟩
      · exact nofun
    · rw [expectReadBlock_refused hinit hok]
      rintro k ⟨⟩
      exact ⟨ErrorKind.reported_benign _, ErrorKind.reported_ne (s.reply_kind_ne 0 _ rfl) nofun⟩

end State

/-- Settles O46: a kind returned is a failure of the second account. -/
theorem kindsReturnedToTheHost : Obligations.KindsReturnedToTheHost := by
  constructor
  · intro s t k hg h hresult
    have hk := s.fromInitialize_expectInitialize
    rw [(State.initialized_of_exec hg h).host] at hresult
    cases he : s.expectInitialize.failure with
    | none => simp [he] at hresult
    | some k' =>
      obtain rfl : k' = k := by simpa [he] using hresult
      exact hk k' he
  · intro n s t hg h
    have hk := s.fromReadBlock_expectReadBlock n
    rw [(State.blockRead_of_exec hg h).result]
    cases he : (s.expectReadBlock n).failure with
    | none => exact .inl rfl
    | some k =>
      obtain ⟨hbenign, hvoltage⟩ := hk k he
      refine .inr ⟨k, rfl, ?_⟩
      cases k <;> simp_all [ErrorKind.benign]

end Sys2Proof.Machine
end

section
/-! PROOFS. That the flag an operation finds is not read (O53): two runs that differ in it. -/

namespace Sys2Proof.Machine

variable {s t : State}

/-- The state with another flag. -/
def State.withFlag (e : Bool) (s : State) : State := { s with tg.expired := e }

/-- `s'` is `s` but perhaps for the flag, where nothing reads it again: the guard is not armed, and only an
`Arm`, which clears the flag, leads into a guarded wait (R24). -/
def State.SameButUnreadFlag (s s' : State) : Prop :=
  s' = s ∨ s.tg.armed = false ∧ s.seq.waiting = false ∧ ∃ e, s' = s.withFlag e

theorem withFlag_of_expired {e : Bool} (h : s.tg.expired = e) : s.withFlag e = s := by
  subst h
  rfl

/-- What does not look at the guard does not look at the flag. -/
theorem withFlag_of_withGuard {f : State → State}
    (hf : ∀ tg n, f (s.withGuard tg n) = (f s).withGuard tg n) (e : Bool) :
    f (s.withFlag e) = (f s).withFlag e := by
  have hother : f (s.withFlag e) = (f s).withGuard ⟨e, s.tg.armed⟩ s.env.countdown := hf _ _
  have hself : f s = (f s).withGuard s.tg s.env.countdown := hf _ _
  rw [hother, hself]
  rfl

theorem clockFill_withFlag (c : Params) (n : Nat) (p : Pos) (s : State) (e : Bool) :
    (s.withFlag e).clockFill c n p = (s.clockFill c n p).withFlag e := by
  dsimp only [State.clockFill, State.withFlag]
  split <;> rfl

theorem dataXfer_withFlag (c : Params) (s : State) (e : Bool) :
    (s.withFlag e).dataXfer c = (s.dataXfer c).withFlag e := by
  dsimp only [State.dataXfer, State.memWrite, State.withFlag]
  repeat' split
  all_goals rfl

/-- Outside the guarded waits the step of a line does not look at the flag; an `Arm` clears it (R152, R154). -/
theorem lineStep_withFlag (c : Params) (hw : s.seq.waiting = false) (e : Bool) :
    lineStep c (s.withFlag e) = (lineStep c s).withFlag (if s.seq.arms then false else e) := by
  cases hk : s.callOf c with
  | some k =>
    have harms : s.seq.arms = false := by cases hq : s.seq <;> simp [State.callOf, hq] at hk <;> rfl
    rw [lineStep_of_call s c hk, lineStep_of_call (s.withFlag e) c hk, harms, if_neg Bool.false_ne_true]
    exact withFlag_of_withGuard (fun tg n => s.transactionStep_withGuard tg n c k) e
  | none =>
    obtain ⟨ds, tg, bt, seq, cmdSeq, w, host, buffer, trace, env⟩ := s
    cases seq <;> simp [State.callOf] at hk
    case initS1High | initS1Low | readTrailer => exact clockFill_withFlag c _ _ _ e
    case readData => exact dataXfer_withFlag c _ e
    case initS4Test | readWaitTest => cases hw
    all_goals rfl

namespace State.SameButUnreadFlag

variable {s' : State}

theorem seq_eq (h : s.SameButUnreadFlag s') : s'.seq = s.seq := by
  obtain rfl | ⟨-, -, e, rfl⟩ := h <;> rfl

theorem eq_but_guard (h : s.SameButUnreadFlag s') : { s' with tg := s.tg } = s := by
  obtain rfl | ⟨-, -, e, rfl⟩ := h <;> rfl

/-- An agent's step keeps the flag unread, or clears it in both. -/
theorem busStep (c : Params) (h : s.SameButUnreadFlag s') :
    (busStep c s).SameButUnreadFlag (busStep c s') := by
  obtain rfl | ⟨ha, hw, e, rfl⟩ := h
  · exact .inl rfl
  · rw [busStep_disarmed c ha, busStep_disarmed c (s := s.withFlag e) ha]
    cases hr : s.seq.resting with
    | true =>
      rw [sequencerStep_resting c hr, sequencerStep_resting c (s := s.withFlag e) hr]
      exact .inr ⟨ha, hw, e, rfl⟩
    | false =>
      have hw' : (s.computed c).seq.waiting = false := by
        rw [← Bool.not_eq_true] at hw ⊢
        exact mt (waiting_of_mem_decisions _ _ (s.computed_seq_mem c)) hw
      have htg := lineStep_tg_eq c (s.computed c)
      rw [sequencerStep_eq c hr, sequencerStep_eq c (s := s.withFlag e) hr,
        withFlag_of_withGuard (computed_withGuard c s) e, lineStep_withFlag c hw']
      cases harms : (s.computed c).seq.arms with
      | true =>
        rw [harms, if_pos rfl] at htg
        rw [if_pos rfl]
        exact .inl (withFlag_of_expired (by rw [htg]))
      | false =>
        rw [harms, if_neg Bool.false_ne_true] at htg
        refine .inr ⟨?_, ?_, e, rfl⟩
        · rw [htg, State.computed_tg]
          split
          · rfl
          · exact ha
        · rw [← Bool.not_eq_true] at hw' ⊢
          exact mt (waiting_of_mem_successors harms _ (lineStep_seq_mem _ c)) hw'

theorem runSteps (c : Params) (n : Nat) (h : s.SameButUnreadFlag s') :
    (runSteps c n s).SameButUnreadFlag (runSteps c n s') := by
  induction n generalizing s s' with
  | zero => exact h
  | succ n ih =>
    cases hr : s.seq.resting with
    | true =>
      rw [runSteps_resting c _ hr, runSteps_resting c _ (by rwa [h.seq_eq])]
      exact h
    | false =>
      rw [runSteps_succ c _ hr, runSteps_succ c _ (by rwa [h.seq_eq])]
      exact ih (h.busStep c)

end State.SameButUnreadFlag

/-- The bound of steps depends on the environment only. -/
theorem runFrom_congr {s' : State} (p : Pos) (w : Work) (henv : s'.env = s.env) :
    s'.runFrom params p w = runSteps params (s.fuel params) (s'.startAt p w) := by
  simp only [State.runFrom, State.fuel, State.nextDelay, henv]

/-- What `exec` answers is a run from the instruction's beginning; from every state with the same position,
transport and environment it answers the run of as many steps. -/
theorem exec_next_congr {i : Instr} (h : exec i s = .next t) : ∃ m, runSteps params m (s.begun i) = t ∧
    ∀ s' : State, s'.seq = s.seq → s'.bt = s.bt → s'.env = s.env →
      exec i s' = .next (runSteps params m (s'.begun i)) := by
  have alone : ∀ {p w}, s.callAlone (s.runFrom params p w) = .next t →
      ∃ m, runSteps params m (s.startAt p w) = t ∧
        ∀ s' : State, s'.seq = s.seq → s'.bt = s.bt → s'.env = s.env →
          s'.callAlone (s'.runFrom params p w) = .next (runSteps params m (s'.startAt p w)) := by
    intro p w h
    obtain ⟨hr, he, hrun⟩ := callAlone_next.1 h
    exact ⟨_, hrun, fun s' hseq hbt henv =>
      callAlone_next.2 ⟨by rwa [hseq], by rwa [hbt], runFrom_congr p w henv⟩⟩
  cases i with
  | cmdGeneric index arg check =>
    obtain ⟨hr, hrun⟩ := whenResting_next.1 h
    exact ⟨0, hrun, fun s' hseq _ _ => whenResting_next.2 ⟨by rwa [hseq], rfl⟩⟩
  | opInitialize =>
    obtain ⟨hidle, hcs, hrun⟩ := execInitialize_next.1 h
    exact ⟨_, hrun, fun s' hseq hbt henv =>
      execInitialize_next.2 ⟨by rwa [hseq], by rwa [hbt], runFrom_congr _ _ henv⟩⟩
  | opReadBlock blockNumber =>
    obtain ⟨hidle, he, hrun⟩ := whenEnabled_next.1 h
    exact ⟨_, hrun, fun s' hseq hbt henv => whenEnabled_next.2 ⟨by rwa [hseq], by rwa [hbt],
      runFrom_congr (s := { s with host.blockNumber := blockNumber })
        (s' := { s' with host.blockNumber := blockNumber }) _ _ henv⟩⟩
  | opIsReady =>
    obtain ⟨hidle, he, hrun⟩ := whenEnabled_next.1 h
    exact ⟨_, hrun, fun s' hseq hbt henv =>
      whenEnabled_next.2 ⟨by rwa [hseq], by rwa [hbt], runFrom_congr _ _ henv⟩⟩
  | opShutdown =>
    obtain ⟨hidle, hrun⟩ := whenIdle_next.1 h
    exact ⟨_, hrun, fun s' hseq _ henv => whenIdle_next.2 ⟨by rwa [hseq], runFrom_congr _ _ henv⟩⟩
  | _ => exact alone h

/-- No instruction begins in a guarded wait, and to begin one looks at no flag. -/
theorem sameButUnreadFlag_begun (i : Instr) (ha : s.tg.armed = false) (e : Bool) :
    (s.begun i).SameButUnreadFlag ((s.withFlag e).begun i) := by
  refine .inr ⟨?_, ?_, e, ?_⟩
  · cases i <;> exact ha
  · cases i <;> rfl
  · cases i <;> rfl

/-- Settles O53: the two runs take step by step the same lines, up to an `Arm` or to the return. -/
theorem flagBeforeAnOperationIsNotRead : Obligations.FlagBeforeAnOperationIsNotRead := by
  intro i s t e hg h
  obtain ⟨m, hrun, hexec⟩ := exec_next_congr h
  have hsame := (sameButUnreadFlag_begun i (hg.disarmed_of_resting (resting_of_exec h)) e).runSteps params m
  rw [hrun] at hsame
  exact ⟨_, hexec (s.withFlag e) rfl rfl rfl, hsame.eq_but_guard⟩

end Sys2Proof.Machine
end

section
/-! PROOFS. The reset state: its stated values (O54), and that the invariants hold there (O55). Beyond those
values the invariants need only that no transaction is in progress, that the counters are 0 and that the buffer
is empty. -/

namespace Sys2Proof.Machine

namespace State

/-! ## At `Idle`, outside a transaction -/

section Idle

variable {s : State} (hidle : s.seq = .idle)
include hidle

/-- At `Idle` no guarded wait is in progress. -/
theorem guardDiscipline_of_idle (ha : s.tg.armed = false) : s.GuardDiscipline :=
  guardDiscipline_of_disarmed ha (by rw [hidle]; exact nofun)

/-- `Idle` fixes no level of the line, and step 1 is not under way. -/
theorem lineDiscipline_of_idle (hplace : s.cmdSeq = .select) : s.LineDiscipline :=
  lineDiscipline_of_released (.inl hplace) (by rw [hplace]; rfl) (by simp [hidle, Pos.line])
    (by simp [hidle])

/-- At `Idle` neither of the two commands is about to be sent. -/
theorem commandsFitTheCard_of_idle : s.CommandsFitTheCard := by
  unfold CommandsFitTheCard
  rw [hidle]
  exact ⟨nofun, nofun⟩

theorem uninitializedWhileNegotiating_of_idle : s.UninitializedWhileNegotiating := by
  unfold UninitializedWhileNegotiating
  rw [hidle]
  exact nofun

end Idle

theorem frameFitsTheCaller_of_select {s : State} (hplace : s.cmdSeq = .select) : s.FrameFitsTheCaller :=
  fun hinside => absurd hplace hinside

theorem countersInRange_of_zero {s : State} (hpoll : s.w.pollCount = 0#4) (hbyte : s.w.byteCount = 0#10) :
    s.CountersInRange :=
  countersInRange_iff.2 ⟨pollInRange_of_zero hpoll, by rw [hbyte]; decide⟩

end State

/-! ## The reset state -/

/-- Settles O54: the values are those the reset state is written with (R271, D22). -/
theorem resetValues : Obligations.ResetValues :=
  ⟨rfl, rfl, rfl, rfl, rfl, rfl⟩

/-- Settles O55: the machine is reset to `Idle`, outside a transaction, with the guard not armed, the counters
at 0 and no position of the buffer written. -/
theorem resetMeetsTheInvariants : Obligations.ResetMeetsTheInvariants := by
  have hidle : State.reset.seq = .idle := rfl
  have hplace : State.reset.cmdSeq = .select := rfl
  exact ⟨State.guardDiscipline_of_idle hidle rfl, State.countersInRange_of_zero rfl rfl,
    State.lineDiscipline_of_idle hidle hplace, State.commandsFitTheCard_of_idle hidle,
    State.frameFitsTheCaller_of_select hplace, State.uninitializedWhileNegotiating_of_idle hidle, rfl⟩

end Sys2Proof.Machine
end
